-- ==== Sys2Proof/Word.lean ====
section
/-! DEFINITION. The words of the block: register bytes, register indices, access words, and the two
enumerated values the spec names (direction, unit width). -/

namespace Sys2Proof

/-- A register value: every register is 8 bits wide (00_scope R7). -/
abbrev Byte := BitVec 8

/-- A register index: `IDX_WIDTH` = 8 (00_scope R10). -/
abbrev Index := BitVec 8

/-- An access word: 18 bits (30_encoding R62). -/
abbrev AccessWord := BitVec 18

/-- `C_b`, the capacity of the byte buffer (00_scope R8). -/
abbrev Cb : Nat := 6

/-- `C_c`, the capacity of the code-unit buffer in bytes (00_scope R9). -/
abbrev Cc : Nat := 4

/-- The control field DIR: "0=write,1=read" (00_scope R20, 10_state R27). -/
inductive Direction where
  | write
  | read
  deriving DecidableEq, Repr

/-- A code-unit width, W ∈ {1, 2, 4} bytes (10_state R39). -/
inductive UnitWidth where
  | w1
  | w2
  | w4
  deriving DecidableEq, Repr

/-- The width in bytes (10_state R39). -/
def UnitWidth.bytes : UnitWidth → Nat
  | .w1 => 1
  | .w2 => 2
  | .w4 => 4

end Sys2Proof
end

