-- ==== Sys2Proof/Config.lean ====
section
/-! DEFINITION. The implementation parameters of 00_scope section 3, as one record of plain data, the spec's
reference values for them, and the free value of a mechanism-dependent pop. -/

namespace Sys2Proof

/-- The register index map (00_scope R11): which index names which register. -/
structure AddrMap where
  ctrl  : Index
  byte  : Index
  cu    : Index
  flags : Index
  deriving DecidableEq, Repr

/-- "All four must be distinct" (00_scope R11). -/
def AddrMap.distinct (m : AddrMap) : Bool :=
  m.ctrl != m.byte && m.ctrl != m.cu && m.ctrl != m.flags &&
    m.byte != m.cu && m.byte != m.flags && m.cu != m.flags

/-- An index outside the register map is reserved (00_scope R10, 20_memory R53). -/
def AddrMap.reserved (m : AddrMap) (i : Index) : Bool :=
  i != m.ctrl && i != m.byte && i != m.cu && i != m.flags

/-- The reference map: CTRL, BYTE, CU, FLAGS at 0x00 to 0x03 (00_scope R11, decision D3). UNVERIFIED: log entry 4. -/
def AddrMap.reference : AddrMap := { ctrl := 0x00, byte := 0x01, cu := 0x02, flags := 0x03 }

/-- The five stored control fields (10_state R24 to R28). -/
structure CtrlFields where
  eren : Bool
  rcen : Bool
  bend : Bool
  dir  : Direction
  wsel : BitVec 2
  deriving DecidableEq, Repr

/-- `widthOf`, one width for each code of WSEL (00_scope R12). -/
structure WidthMap where
  code00 : UnitWidth
  code01 : UnitWidth
  code10 : UnitWidth
  code11 : UnitWidth
  deriving DecidableEq, Repr

/-- `CU_PLACEMENT` (00_scope R16). -/
inductive Placement where
  /-- The reference mechanism: a stored-byte pop returns its lane's value (42_code_unit_buffer R85, R90). -/
  | mirroredLane
  /-- The mechanism is not known: a contract result is the byte pushed, every other stored-byte result is a
  draw (00_scope R16, 42_code_unit_buffer R92, 93_implementation_defined I1, I2). -/
  | undetermined
  deriving DecidableEq, Repr

/-- The parameters of 00_scope section 3 that the spec leaves open. `REG_WIDTH`, `C_b`, `C_c` and `IDX_WIDTH` are the
constants of Word.lean. -/
structure Config where
  addrs              : AddrMap
  widths             : WidthMap
  ctrlReset          : CtrlFields
  inResetRewindsRp   : Bool
  emptyPopClearsOst  : Bool
  placement          : Placement
  deriving DecidableEq, Repr

/-- `widthOf` at its reference values: 00→1, 01→2, 10→4, 11→4 (00_scope R12, decision D5). UNVERIFIED: log entry 6. -/
def WidthMap.reference : WidthMap := { code00 := .w1, code01 := .w2, code10 := .w4, code11 := .w4 }

/-- `CTRL_RESET_FIELDS` at its reference values (00_scope R13, decision D9). UNVERIFIED: log entry 5. -/
def CtrlFields.reference : CtrlFields :=
  { eren := true, rcen := true, bend := true, dir := .write, wsel := 0b00 }

/-- Every parameter at the spec's reference value (00_scope section 3): the spec's own simulation. -/
def Config.reference : Config :=
  { addrs := .reference, widths := .reference, ctrlReset := .reference, inResetRewindsRp := false,
    emptyPopClearsOst := true, placement := .mirroredLane }

/-- The parameters `State.reset` holds: the reference values, with the placement undetermined, as 42_code_unit_buffer
R92 asks of a model of the chip. DESIGN CHOICE: log entries 3 and 9. -/
def Config.chip : Config := { Config.reference with placement := .undetermined }

/-- A parameter record the spec admits: its index map is distinct (00_scope R11). -/
def Config.wellFormed (c : Config) : Bool := c.addrs.distinct

/-- The free byte of the n-th draw: the value of a mechanism-dependent pop (42_code_unit_buffer R92). It has no body, so
nothing can be proved about it. Log entry 9. -/
opaque Config.freeByte : Nat → Byte

end Sys2Proof
end

