-- ==== Sys2Proof/Syntax.lean ====
section
/-! DEFINITION. The operations of the block, one constructor for each mnemonic of spec/opcode_table.json. -/

namespace Sys2Proof

/-- The operations of 30_encoding R67. A constructor holds the operands its rule names, and no bit that R64 says is
ignored. -/
inductive Instr where
  /-- RESET (70_reset_and_hazards R120). -/
  | reset
  /-- RDCTRL (40_control_register R72). -/
  | rdctrl
  /-- WRCTRL (40_control_register R73): the written value. -/
  | wrctrl (v : Byte)
  /-- RDBYTE (41_byte_buffer R79). -/
  | rdbyte
  /-- WRBYTE (41_byte_buffer R76): the byte pushed. -/
  | wrbyte (v : Byte)
  /-- RDCU (42_code_unit_buffer R89). -/
  | rdcu
  /-- WRCU (42_code_unit_buffer R86): the byte pushed. -/
  | wrcu (v : Byte)
  /-- RDFLAGS (44_flags_and_reserved R103). -/
  | rdflags
  /-- WRFLAGS (44_flags_and_reserved R104): the value, which is ignored. -/
  | wrflags (v : Byte)
  /-- RDRSV (44_flags_and_reserved R105): the reserved index. -/
  | rdrsv (idx : Index)
  /-- WRRSV (44_flags_and_reserved R106): the reserved index and the value, which is ignored. -/
  | wrrsv (idx : Index) (v : Byte)
  /-- ILLEGAL (44_flags_and_reserved R107): the word spells no operation. -/
  | illegal
  deriving DecidableEq, Repr

end Sys2Proof
end

