-- ==== Sys2Proof/WellFormed.lean ====
section
/-! DEFINITION. Which terms of `Instr` are operations of a block with a given index map. -/

namespace Sys2Proof

/-- A reserved access names an index outside the register map (44_flags_and_reserved R105, R106); nothing else restricts
an operand, since every 8-bit value may be written (10_state R42). -/
def Instr.wellFormed (m : AddrMap) : Instr → Bool
  | .reset | .rdctrl | .wrctrl _ | .rdbyte | .wrbyte _ | .rdcu | .wrcu _ | .rdflags | .wrflags _ | .illegal => true
  | .rdrsv idx => m.reserved idx
  | .wrrsv idx _ => m.reserved idx

end Sys2Proof
end

