-- ==== Sys2Proof/Decode.lean ====
section
/-! DEFINITION. Access words to operations and back (30_encoding), and the spec's assembler notation (R70, R71). -/

namespace Sys2Proof

/-! ### Fields of an access word (30_encoding R62) -/

/-- KIND, bits 17:16. -/
def kindOf (w : AccessWord) : BitVec 2 := w.extractLsb' 16 2

/-- IDX, bits 15:8. -/
def idxOf (w : AccessWord) : Index := w.extractLsb' 8 8

/-- DATA, bits 7:0. -/
def dataOf (w : AccessWord) : Byte := w.extractLsb' 0 8

/-- The access word of three fields: `KIND << 16 | IDX << 8 | DATA` (30_encoding R70). -/
def packWord (kind : BitVec 2) (idx : Index) (data : Byte) : AccessWord :=
  kind.setWidth 18 <<< 16 ||| idx.setWidth 18 <<< 8 ||| data.setWidth 18

/-! ### The decoder (30_encoding R63, R67) -/

/-- KIND = 0b00: the read of a register index; DATA is ignored (R64). -/
def decodeRead (m : AddrMap) (idx : Index) : Instr :=
  if idx = m.ctrl then .rdctrl
  else if idx = m.byte then .rdbyte
  else if idx = m.cu then .rdcu
  else if idx = m.flags then .rdflags
  else .rdrsv idx

/-- KIND = 0b01: the write of a register index. -/
def decodeWrite (m : AddrMap) (idx : Index) (v : Byte) : Instr :=
  if idx = m.ctrl then .wrctrl v
  else if idx = m.byte then .wrbyte v
  else if idx = m.cu then .wrcu v
  else if idx = m.flags then .wrflags v
  else .wrrsv idx v

/-- Every access word is one row of the opcode map (30_encoding R67). KIND = 0b11 is the row ILLEGAL, whose only meaning
is its refusal (44_flags_and_reserved R107; log entry 14). -/
def decode (m : AddrMap) (w : AccessWord) : Instr :=
  if kindOf w = 0b00#2 then decodeRead m (idxOf w)
  else if kindOf w = 0b01#2 then decodeWrite m (idxOf w) (dataOf w)
  else if kindOf w = 0b10#2 then .reset
  else .illegal

/-- Why a pattern of bits is not decoded. -/
inductive DecodeError where
  /-- A bit above bit 17 is set: an access word has 18 bits and there is no longer form (30_encoding R62, R69). -/
  | notAnAccessWord
  deriving DecidableEq, Repr

/-- The decoder on any pattern of bits, read as a number with bit 0 least significant. -/
def decodeBits (m : AddrMap) (w : Nat) : Except DecodeError Instr :=
  if w < 2 ^ 18 then .ok (decode m (BitVec.ofNat 18 w)) else .error .notAnAccessWord

/-- The operation of a table row's word, under the reference index map that spec/opcode_table.json is written for. -/
def decodeTableWord (nbits w : Nat) : Option Instr :=
  match decodeBits .reference (w % 2 ^ nbits) with
  | .ok i => some i
  | .error _ => none

/-! ### The encoder -/

/-- KIND of an operation (30_encoding R63, R67). -/
def Instr.kind : Instr → BitVec 2
  | .rdctrl | .rdbyte | .rdcu | .rdflags | .rdrsv _ => 0b00
  | .wrctrl _ | .wrbyte _ | .wrcu _ | .wrflags _ | .wrrsv _ _ => 0b01
  | .reset => 0b10
  | .illegal => 0b11

/-- IDX of an operation (30_encoding R67); 0 where it is ignored (R64). -/
def Instr.idx (m : AddrMap) : Instr → Index
  | .rdctrl | .wrctrl _ => m.ctrl
  | .rdbyte | .wrbyte _ => m.byte
  | .rdcu | .wrcu _ => m.cu
  | .rdflags | .wrflags _ => m.flags
  | .rdrsv i | .wrrsv i _ => i
  | .reset | .illegal => 0

/-- DATA of an operation (30_encoding R65); 0 where it is ignored (R64). -/
def Instr.data : Instr → Byte
  | .wrctrl v | .wrbyte v | .wrcu v | .wrflags v | .wrrsv _ v => v
  | .rdctrl | .rdbyte | .rdcu | .rdflags | .rdrsv _ | .reset | .illegal => 0

/-- "An assembler writes 0 in every ignored bit" (30_encoding R64). -/
def encode (m : AddrMap) (i : Instr) : AccessWord := packWord i.kind (i.idx m) i.data

/-- An access word with its ignored bits written 0 (30_encoding R64; an illegal word has no operands,
44_flags_and_reserved R107). -/
def clearIgnored (w : AccessWord) : AccessWord :=
  if kindOf w = 0b00#2 then w &&& 0x3FF00
  else if kindOf w = 0b01#2 then w
  else w &&& 0x30000

/-- The mnemonic of an operation, as 30_encoding R67 and spec/opcode_table.json write it. -/
def Instr.mnemonic : Instr → String
  | .reset => "RESET"
  | .rdctrl => "RDCTRL"
  | .wrctrl _ => "WRCTRL"
  | .rdbyte => "RDBYTE"
  | .wrbyte _ => "WRBYTE"
  | .rdcu => "RDCU"
  | .wrcu _ => "WRCU"
  | .rdflags => "RDFLAGS"
  | .wrflags _ => "WRFLAGS"
  | .rdrsv _ => "RDRSV"
  | .wrrsv _ _ => "WRRSV"
  | .illegal => "ILLEGAL"

/-! ### The opcode table (30_encoding R67, spec/opcode_table.json) -/

/-- One row of spec/opcode_table.json: a word is of the row when its bits under `mask` are those of `bits`. -/
structure OpcodeRow where
  mnemonic : String
  bits     : AccessWord
  mask     : AccessWord
  deriving DecidableEq, Repr

/-- Whether a word is of a row. -/
def OpcodeRow.covers (r : OpcodeRow) (w : AccessWord) : Bool := decide (w &&& r.mask = r.bits)

/-- RESET and the accesses of the four mapped registers. -/
def opcodeRowsMapped : List OpcodeRow :=
  [ ⟨"RESET", 0x20000, 0x30000⟩,
    ⟨"RDCTRL", 0x00000, 0x3FF00⟩, ⟨"WRCTRL", 0x10000, 0x3FF00⟩,
    ⟨"RDBYTE", 0x00100, 0x3FF00⟩, ⟨"WRBYTE", 0x10100, 0x3FF00⟩,
    ⟨"RDCU", 0x00200, 0x3FF00⟩, ⟨"WRCU", 0x10200, 0x3FF00⟩,
    ⟨"RDFLAGS", 0x00300, 0x3FF00⟩, ⟨"WRFLAGS", 0x10300, 0x3FF00⟩ ]

/-- The six disjoint patterns of the reserved indices 0x04 to 0xFF, for a read and for a write. -/
def opcodeRowsReserved : List OpcodeRow :=
  [ ⟨"RDRSV", 0x00400, 0x3FC00⟩, ⟨"RDRSV", 0x00800, 0x3F800⟩, ⟨"RDRSV", 0x01000, 0x3F000⟩,
    ⟨"RDRSV", 0x02000, 0x3E000⟩, ⟨"RDRSV", 0x04000, 0x3C000⟩, ⟨"RDRSV", 0x08000, 0x38000⟩,
    ⟨"WRRSV", 0x10400, 0x3FC00⟩, ⟨"WRRSV", 0x10800, 0x3F800⟩, ⟨"WRRSV", 0x11000, 0x3F000⟩,
    ⟨"WRRSV", 0x12000, 0x3E000⟩, ⟨"WRRSV", 0x14000, 0x3C000⟩, ⟨"WRRSV", 0x18000, 0x38000⟩ ]

/-- The rows of spec/opcode_table.json, under the reference index map. -/
def opcodeTable : List OpcodeRow :=
  opcodeRowsMapped ++ opcodeRowsReserved ++ [⟨"ILLEGAL", 0x30000, 0x30000⟩]

/-! ### The assembler (30_encoding R70, R71) -/

/-- `<reg> ::= ctrl | byte | cu | flags | r<n>` (30_encoding R70). -/
inductive AsmReg where
  | ctrl
  | byte
  | cu
  | flags
  | r (n : Index)
  deriving DecidableEq, Repr

/-- The index a register name stands for (30_encoding R70). -/
def AsmReg.index (m : AddrMap) : AsmReg → Index
  | .ctrl => m.ctrl
  | .byte => m.byte
  | .cu => m.cu
  | .flags => m.flags
  | .r n => n

/-- One line of assembly: `rd <reg>`, `wr <reg>, <imm8>` or `reset` (30_encoding R70). -/
inductive AsmLine where
  | rd (reg : AsmReg)
  | wr (reg : AsmReg) (imm8 : Byte)
  | reset
  deriving DecidableEq, Repr

/-- "Access word of a line: AW = KIND << 16 | IDX << 8 | DATA" (30_encoding R70). -/
def AsmLine.word (m : AddrMap) : AsmLine → AccessWord
  | .rd reg => packWord 0b00 (reg.index m) 0
  | .wr reg v => packWord 0b01 (reg.index m) v
  | .reset => packWord 0b10 0 0

/-- The field constants of 30_encoding R71, OR-ed together into a field byte. -/
def asmEREN : Byte := 0x02
def asmRCEN : Byte := 0x04
def asmBE : Byte := 0x08
def asmLE : Byte := 0x00
def asmDIR_W : Byte := 0x00
def asmDIR_R : Byte := 0x10
def asmW1 : Byte := 0x00
def asmW2 : Byte := 0x20
def asmW4 : Byte := 0x40
def asmW3RSV : Byte := 0x60

/-- The pseudo-instructions of 30_encoding R71; `f` is the field byte F. -/
inductive Pseudo where
  | pushB (v : Byte)
  | popB
  | pushU (v : Byte)
  | popU
  | cfg (f : Byte)
  | rstIn (f : Byte)
  | rstOut (f : Byte)
  | rstAll (f : Byte)
  | flags
  deriving DecidableEq, Repr

/-- "Each one expands to exactly one line of rule R70" (30_encoding R71). -/
def Pseudo.expand : Pseudo → AsmLine
  | .pushB v => .wr .byte v
  | .popB => .rd .byte
  | .pushU v => .wr .cu v
  | .popU => .rd .cu
  | .cfg f => .wr .ctrl ((f &&& 0x7E) ||| 0x81)
  | .rstIn f => .wr .ctrl ((f &&& 0x7E) ||| 0x01)
  | .rstOut f => .wr .ctrl ((f &&& 0x7E) ||| 0x80)
  | .rstAll f => .wr .ctrl (f &&& 0x7E)
  | .flags => .rd .flags

end Sys2Proof
end

