-- ==== Sys2Proof/Machine/State.lean ====
section
/-! DEFINITION. The state of the block (10_state R23), the host's side of a run, the reasons a step stops, and the state
after reset. -/

namespace Sys2Proof.Machine

/-- The configuration tag CB.cfg (10_state R37). -/
inductive CuTag where
  /-- NONE: nothing has been pushed since the last input reset. -/
  | none
  /-- LE: every push since then had BEND = 0. -/
  | le
  /-- BE(W): every push since then had BEND = 1 and unit width W. -/
  | be (w : UnitWidth)
  /-- MIXED: the pushes since then did not all have one configuration. -/
  | mixed
  deriving DecidableEq, Repr

/-- The byte buffer BB (10_state R31 to R33). -/
structure ByteBuffer where
  data : Vector Byte Cb
  wp   : Nat
  rp   : Nat
  deriving DecidableEq, Repr

/-- The code-unit buffer CB (10_state R34 to R37). -/
structure CodeUnitBuffer where
  lane : Vector Byte Cc
  wp   : Nat
  rp   : Nat
  cfg  : CuTag
  deriving DecidableEq, Repr

/-- What the outside may do next (70_reset_and_hazards R132, R133). Only the first is an operation of the block; the others
are what the spec says a model refuses (93_implementation_defined I18 to I21; log entry 19). -/
inductive HostEvent where
  /-- The one host agent issues an access word: an 8-bit read, an 8-bit write or a reset (30_encoding R62, R63). -/
  | word (w : AccessWord)
  /-- A pattern of bits that is no 18-bit access word (30_encoding R62, R69). -/
  | overlong (w : Nat)
  /-- An access of `bits` ≠ 8 bits to a register index (20_memory R47, R49). -/
  | otherWidth (bits : Nat) (idx : Index)
  /-- An instruction fetch from a register index (20_memory R59). -/
  | fetch (idx : Index)
  /-- A second agent issues an access word (20_memory R56). -/
  | secondAgent (w : AccessWord)
  /-- A reset arrives during an access (70_reset_and_hazards R121). -/
  | resetDuring (w : AccessWord)
  deriving DecidableEq, Repr

/-- The block's state S (10_state R23) in the fields `ctl`, `ist`, `ost`, `bb` and `cb`; the model's own fields follow. -/
structure State where
  /-- EREN, RCEN, BEND, DIR, WSEL (10_state R24 to R28). -/
  ctl     : CtrlFields
  /-- IST, the input side's status (10_state R29). -/
  ist     : Bool
  /-- OST, the output side's status (10_state R30). -/
  ost     : Bool
  /-- The byte buffer (10_state R31 to R33). -/
  bb      : ByteBuffer
  /-- The code-unit buffer (10_state R34 to R37). -/
  cb      : CodeUnitBuffer
  /-- The parameters, fixed for a run (10_state R44; log entry 3). -/
  config  : Config
  /-- The host's events still to be performed, the next one first (70_reset_and_hazards R132; log entry 1). -/
  pending : List HostEvent
  /-- The values the run's reads have returned, in order (70_reset_and_hazards R132; log entry 20). -/
  results : List Byte
  /-- How many free values the run has taken (log entry 9). -/
  draws   : Nat
  deriving DecidableEq, Repr

/-- The block raises no exception and never stops (60_exceptions R108, 43_direction_reset_controller R100;
93_implementation_defined: "`fault` and `stuck` are not used"): there is no fault, so this type has no constructor. -/
inductive Fault where
  deriving DecidableEq, Repr

/-- Why a step is refused. Every one is safe: the model has no transition, so no claim can rest on the case. -/
inductive Refusal where
  /-- Raised by an arm of `exec` for an instruction that has no meaning yet; none is left. Safe. -/
  | notModelled (mnemonic : String)
  /-- Raised by the meaning of ILLEGAL: KIND = 0b11 spells no operation, "a model refuses the word" (44_flags_and_reserved
  R107). Safe. -/
  | illegalAccessWord
  /-- Raised by `perform` on bits that are no 18-bit access word (30_encoding R62, R69). Safe. -/
  | notAnAccessWord
  /-- Raised by `perform` on a host access that is not 8 bits wide: "a model refuses them" (20_memory R47, R49). Safe. -/
  | accessWidth
  /-- Raised by `perform` on an instruction fetch: "a model refuses it" (20_memory R59). Safe. -/
  | instructionFetch
  /-- Raised by `perform` on a second agent's access: "a model refuses it" (20_memory R56). Safe. -/
  | secondAgent
  /-- Raised by `perform` on a reset during an access (70_reset_and_hazards R121, decision D19). Safe. -/
  | resetDuringAccess
  deriving DecidableEq, Repr

/-- The byte buffer after reset (10_state R31 to R33). -/
def ByteBuffer.empty : ByteBuffer := { data := Vector.replicate Cb 0x00, wp := 0, rp := 0 }

/-- The code-unit buffer after reset (10_state R34 to R37). -/
def CodeUnitBuffer.empty : CodeUnitBuffer := { lane := Vector.replicate Cc 0x00, wp := 0, rp := 0, cfg := .none }

/-- The machine right after reset (70_reset_and_hazards R120), with the parameters of `Config.chip` and nothing issued by
the host yet (log entries 1, 3, 5, 9, 20). -/
def State.reset : State :=
  { ctl := Config.chip.ctrlReset, ist := true, ost := true, bb := .empty, cb := .empty, config := .chip,
    pending := [], results := [], draws := 0 }

end Sys2Proof.Machine
end

