-- ==== Sys2Proof/Machine/Operands.lean ====
section
/-! DEFINITION. Operand forms: the fields of a written control byte, the code-unit width, and the lane of a byte index. -/

namespace Sys2Proof.Machine

/-- The direction a DIR bit names: 0 = Write, 1 = Read (10_state R27). -/
def dirOfBit (b : Bool) : Direction := if b then .read else .write

/-- The stored fields a CTRL write's value carries (30_encoding R65, 40_control_register R73). -/
def ctlOfByte (v : Byte) : CtrlFields :=
  { eren := v[1], rcen := v[2], bend := v[3], dir := dirOfBit (v[4]),
    wsel := v.extractLsb' 5 2 }

/-- A CTRL write pulses an input reset when bit 7 is 0 (40_control_register R73). -/
def pulsesInputReset (v : Byte) : Bool := !v[7]

/-- A CTRL write pulses an output reset when bit 0 is 0 (40_control_register R73). -/
def pulsesOutputReset (v : Byte) : Bool := !v[0]

/-- `widthOf` (00_scope R12): total on the four codes of WSEL. -/
def widthOf (m : WidthMap) (wsel : BitVec 2) : UnitWidth :=
  if wsel = 0b00#2 then m.code00
  else if wsel = 0b01#2 then m.code01
  else if wsel = 0b10#2 then m.code10
  else m.code11

/-- The current code-unit width, computed from the current WSEL at each access (10_state R39, 30_encoding R66). -/
def unitWidth (s : State) : UnitWidth := widthOf s.config.widths s.ctl.wsel

/-- `laneOf(i, be, W)` of the mirrored-lane mechanism (42_code_unit_buffer R85). -/
def laneOf (i : Nat) (be : Bool) (w : UnitWidth) : Nat :=
  if be then (i / w.bytes) * w.bytes + (w.bytes - 1 - i % w.bytes) else i

/-- The lane of byte index `i` under the current BEND and W (42_code_unit_buffer R87, R90). -/
def currentLane (s : State) (i : Nat) : Nat := laneOf i s.ctl.bend (unitWidth s)

/-- The key k of the current placement configuration: LE, or BE(W) (42_code_unit_buffer R87, R92). -/
def placementKey (s : State) : CuTag := if s.ctl.bend then .be (unitWidth s) else .le

/-- The tag after a stored push under key k (42_code_unit_buffer R87). -/
def tagAfterPush (cfg k : CuTag) : CuTag :=
  if cfg = .none then k else if cfg = k then k else .mixed

/-- Whether the unit that holds byte index `i` is complete: CB.wp >= (i div W + 1) * W (42_code_unit_buffer R92). -/
def unitComplete (wp i : Nat) (w : UnitWidth) : Bool := decide ((i / w.bytes + 1) * w.bytes ≤ wp)

/-- The byte of cell `i`. Every rule reads only below the capacity; above it there is no cell and the answer 0x00 is
reached in no run (10_state R31, R40). DESIGN CHOICE: log entry 25. -/
def cellAt {n : Nat} (v : Vector Byte n) (i : Nat) : Byte := (v[i]?).getD 0x00

end Sys2Proof.Machine
end

