-- ==== Sys2Proof/Machine/Flags.lean ====
section
/-! DEFINITION. The full and empty flags, and the bytes that CTRL and FLAGS read as. -/

namespace Sys2Proof.Machine

/-- BEMPTY: the byte buffer has nothing left to pop (10_state R38). -/
def bempty (s : State) : Bool := !decide (s.bb.rp < s.bb.wp)

/-- BFULL: the byte buffer accepts no further push (10_state R38). -/
def bfull (s : State) : Bool := decide (s.bb.wp = Cb)

/-- UEMPTY: the code-unit buffer has nothing left to pop (10_state R38). -/
def uempty (s : State) : Bool := !decide (s.cb.rp < s.cb.wp)

/-- UFULL: the code-unit buffer accepts no further push (10_state R38). -/
def ufull (s : State) : Bool := decide (s.cb.wp = Cc)

/-- A Boolean at bit `n` of a byte (00_scope R17, R20). -/
def bitAt (n : Nat) (b : Bool) : Byte := (BitVec.ofBool b).setWidth 8 <<< n

/-- The DIR bit: Write = 0, Read = 1 (10_state R27). -/
def bitOfDir : Direction → Bool
  | .write => false
  | .read => true

/-- The FLAGS register: `UFULL<<3 | UEMPTY<<2 | BFULL<<1 | BEMPTY` (10_state R43, 44_flags_and_reserved R103). -/
def flagsByte (s : State) : Byte :=
  bitAt 3 (ufull s) ||| bitAt 2 (uempty s) ||| bitAt 1 (bfull s) ||| bitAt 0 (bempty s)

/-- The stored fields at their bits 6:1 of CTRL (10_state R42). -/
def fieldsByte (c : CtrlFields) : Byte :=
  c.wsel.setWidth 8 <<< 5 ||| bitAt 4 (bitOfDir c.dir) ||| bitAt 3 c.bend ||| bitAt 2 c.rcen ||| bitAt 1 c.eren

/-- The CTRL register: `IST<<7 | WSEL<<5 | DIR<<4 | BEND<<3 | RCEN<<2 | EREN<<1 | OST` (10_state R42, 40_control_register
R72). -/
def ctrlByte (s : State) : Byte := bitAt 7 s.ist ||| fieldsByte s.ctl ||| bitAt 0 s.ost

end Sys2Proof.Machine
end

