-- ==== Sys2Proof/Machine/Ops.lean ====
section
/-! DEFINITION. The shared operations: answering a read, push and pop of the two buffers, the two directional resets, the
store of the control fields, and the whole reset. There is no exception to take: 60_exceptions R108, R114. -/

namespace Sys2Proof.Machine

/-- A read gives the host its value (70_reset_and_hazards R132, R133); the block's state is not touched. -/
def answer (v : Byte) (s : State) : State := { s with results := s.results ++ [v] }

/-- OST after a pop: a pop that returns a stored byte clears it, an empty pop clears it when `EMPTY_POP_CLEARS_OST`
(43_direction_reset_controller R99). -/
def ostAfterPop (s : State) (stored : Bool) : Bool :=
  if stored || s.config.emptyPopClearsOst then false else s.ost

/-! ### Byte buffer -/

/-- The buffer after PUSHB: stored when below capacity, dropped when full (41_byte_buffer R77). -/
def ByteBuffer.push (b : ByteBuffer) (v : Byte) : ByteBuffer :=
  if b.wp < Cb then { b with data := b.data.setIfInBounds b.wp v, wp := b.wp + 1 } else b

/-- PUSHB (41_byte_buffer R77). -/
def pushB (v : Byte) (s : State) : State := { s with bb := s.bb.push v, ist := false }

/-- The byte POPB returns: the cell at the read pointer, or the sentinel 0x00 (41_byte_buffer R80). -/
def ByteBuffer.front (b : ByteBuffer) : Byte := if b.rp < b.wp then cellAt b.data b.rp else 0x00

/-- The buffer after POPB: the read pointer advances when a byte was returned; no cell changes (41_byte_buffer R80). -/
def ByteBuffer.pop (b : ByteBuffer) : ByteBuffer := if b.rp < b.wp then { b with rp := b.rp + 1 } else b

/-- POPB: the state after it (41_byte_buffer R80). -/
def popB (s : State) : State := { s with bb := s.bb.pop, ost := ostAfterPop s (!bempty s) }

/-! ### Code-unit buffer -/

/-- The buffer after PUSHU at a lane under a key: stored when below capacity, dropped when full (42_code_unit_buffer R87). -/
def CodeUnitBuffer.push (b : CodeUnitBuffer) (v : Byte) (lane : Nat) (k : CuTag) : CodeUnitBuffer :=
  if b.wp < Cc then
    { b with lane := b.lane.setIfInBounds lane v, wp := b.wp + 1, cfg := tagAfterPush b.cfg k }
  else b

/-- PUSHU (42_code_unit_buffer R87). -/
def pushU (v : Byte) (s : State) : State :=
  { s with cb := s.cb.push v (currentLane s s.cb.wp) (placementKey s), ist := false }

/-- Whether a stored-byte POPU here is a contract result (42_code_unit_buffer R92): case (a), LE pushes and an LE pop; case
(b), BE(W) pushes, a BE(W) pop, and a complete unit. -/
def contractPop (s : State) : Bool :=
  match s.cb.cfg with
  | .le => decide (placementKey s = .le)
  | .be w => decide (placementKey s = .be w) && unitComplete s.cb.wp s.cb.rp w
  | .none | .mixed => false

/-- Whether this POPU takes a free value: it returns a stored byte, the mechanism is not known, and the result is
mechanism-dependent (42_code_unit_buffer R92, 00_scope R16). -/
def popDraws (s : State) : Bool :=
  !uempty s && decide (s.config.placement = .undetermined) && !contractPop s

/-- The byte POPU returns: the sentinel 0x00, a draw, or the byte in its lane (42_code_unit_buffer R90, R92). -/
def frontU (s : State) : Byte :=
  if uempty s then 0x00
  else if popDraws s then Config.freeByte s.draws
  else cellAt s.cb.lane (currentLane s s.cb.rp)

/-- The buffer after POPU: the read pointer advances when a byte was returned; no lane changes (42_code_unit_buffer R90). -/
def CodeUnitBuffer.pop (b : CodeUnitBuffer) : CodeUnitBuffer := if b.rp < b.wp then { b with rp := b.rp + 1 } else b

/-- POPU: the state after it; the pointer and status effects are the same in both classes (42_code_unit_buffer R90, R92). -/
def popU (s : State) : State :=
  { s with cb := s.cb.pop, ost := ostAfterPop s (!uempty s), draws := if popDraws s then s.draws + 1 else s.draws }

/-! ### The direction/reset controller -/

/-- InputReset's effect on the byte buffer; `rewind` is `IN_RESET_REWINDS_RP` (43_direction_reset_controller R97). -/
def ByteBuffer.inputReset (b : ByteBuffer) (rewind : Bool) : ByteBuffer :=
  { data := Vector.replicate Cb 0x00, wp := 0, rp := if rewind then 0 else b.rp }

/-- InputReset's effect on the code-unit buffer (43_direction_reset_controller R97). -/
def CodeUnitBuffer.inputReset (b : CodeUnitBuffer) (rewind : Bool) : CodeUnitBuffer :=
  { lane := Vector.replicate Cc 0x00, wp := 0, rp := if rewind then 0 else b.rp, cfg := .none }

/-- InputReset(S) (43_direction_reset_controller R97). -/
def inputReset (s : State) : State :=
  { s with
    bb := s.bb.inputReset s.config.inResetRewindsRp
    cb := s.cb.inputReset s.config.inResetRewindsRp
    ist := true }

/-- OutputReset(S) (43_direction_reset_controller R98). -/
def outputReset (s : State) : State :=
  { s with bb := { s.bb with rp := 0 }, cb := { s.cb with rp := 0 }, ost := true }

/-- The field store of a CTRL write (40_control_register R73). -/
def storeFields (v : Byte) (s : State) : State := { s with ctl := ctlOfByte v }

/-- A CTRL write: the field store and the reset pulses, one atomic step (40_control_register R73); the order of the parts
does not matter (43_direction_reset_controller R101). -/
def controlWrite (v : Byte) (s : State) : State :=
  let stored := storeFields v s
  let afterIn := if pulsesInputReset v then inputReset stored else stored
  if pulsesOutputReset v then outputReset afterIn else afterIn

/-- RESET: every element of S to its reset value (70_reset_and_hazards R120); the model's own fields stay (log entry 31). -/
def blockReset (s : State) : State :=
  { s with ctl := s.config.ctrlReset, ist := true, ost := true, bb := .empty, cb := .empty }

end Sys2Proof.Machine
end

