-- ==== Sys2Proof/Machine/ByteBuffer.lean ====
section
/-! DEFINITION. RDBYTE and WRBYTE (41_byte_buffer), routed by the current DIR (43_direction_reset_controller R96). -/

namespace Sys2Proof.Machine

/-- WRBYTE: push when DIR = Write (41_byte_buffer R76, R77); ignored when DIR = Read (R78; log entry 11). -/
def execWrbyte (v : Byte) (s : State) : Host.Outcome State Fault Refusal :=
  match s.ctl.dir with
  | .write => .next (pushB v s)
  | .read => .next s

/-- RDBYTE: pop when DIR = Read (41_byte_buffer R79, R80); 0x00 and no state change when DIR = Write (R81; log entry
11). -/
def execRdbyte (s : State) : Host.Outcome State Fault Refusal :=
  match s.ctl.dir with
  | .read => .next (answer s.bb.front (popB s))
  | .write => .next (answer 0x00 s)

end Sys2Proof.Machine
end

