-- ==== Sys2Proof/Machine/CodeUnitBuffer.lean ====
section
/-! DEFINITION. RDCU and WRCU (42_code_unit_buffer), routed by the current DIR (43_direction_reset_controller R96). -/

namespace Sys2Proof.Machine

/-- WRCU: push when DIR = Write (42_code_unit_buffer R86, R87); ignored when DIR = Read (R88; log entry 11). -/
def execWrcu (v : Byte) (s : State) : Host.Outcome State Fault Refusal :=
  match s.ctl.dir with
  | .write => .next (pushU v s)
  | .read => .next s

/-- RDCU: pop when DIR = Read (42_code_unit_buffer R89, R90, R92); 0x00 and no state change when DIR = Write (R91; log
entry 11). -/
def execRdcu (s : State) : Host.Outcome State Fault Refusal :=
  match s.ctl.dir with
  | .read => .next (answer (frontU s) (popU s))
  | .write => .next (answer 0x00 s)

end Sys2Proof.Machine
end

