-- ==== Sys2Proof/Machine/ControlRegister.lean ====
section
/-! DEFINITION. RDCTRL and WRCTRL (40_control_register). EREN and RCEN are stored and read back and have no other effect
(R74). -/

namespace Sys2Proof.Machine

/-- RDCTRL: the stored fields and the live status bits; the read changes no state (40_control_register R72). -/
def execRdctrl (s : State) : Host.Outcome State Fault Refusal := .next (answer (ctrlByte s) s)

/-- WRCTRL (40_control_register R73). -/
def execWrctrl (v : Byte) (s : State) : Host.Outcome State Fault Refusal := .next (controlWrite v s)

end Sys2Proof.Machine
end

