-- ==== Sys2Proof/Machine/FlagsReserved.lean ====
section
/-! DEFINITION. RDFLAGS, WRFLAGS, RDRSV, WRRSV and ILLEGAL (44_flags_and_reserved). None of them depends on DIR
(43_direction_reset_controller R96). -/

namespace Sys2Proof.Machine

/-- RDFLAGS (44_flags_and_reserved R103). -/
def execRdflags (s : State) : Host.Outcome State Fault Refusal := .next (answer (flagsByte s) s)

/-- WRFLAGS: no state change (44_flags_and_reserved R104; log entry 13). -/
def execWrflags (_v : Byte) (s : State) : Host.Outcome State Fault Refusal := .next s

/-- RDRSV: 0x00, no state change (44_flags_and_reserved R105; log entry 12). -/
def execRdrsv (_idx : Index) (s : State) : Host.Outcome State Fault Refusal := .next (answer 0x00 s)

/-- WRRSV: no state change (44_flags_and_reserved R106; log entry 12). -/
def execWrrsv (_idx : Index) (_v : Byte) (s : State) : Host.Outcome State Fault Refusal := .next s

/-- ILLEGAL: "A model refuses the word at decode and gives it no meaning. It does not treat the word as a no-op."
(44_flags_and_reserved R107; log entry 14). -/
def execIllegal (_s : State) : Host.Outcome State Fault Refusal := .refused .illegalAccessWord

end Sys2Proof.Machine
end

