-- ==== Sys2Proof/Machine/ResetOp.lean ====
section
/-! DEFINITION. RESET (70_reset_and_hazards): power-on and explicit reset are this one operation (R121). -/

namespace Sys2Proof.Machine

/-- RESET (70_reset_and_hazards R120). -/
def execReset (s : State) : Host.Outcome State Fault Refusal := .next (blockReset s)

end Sys2Proof.Machine
end

