-- ==== Sys2Proof/Machine/Dispatch.lean ====
section
/-! DEFINITION. One arm per operation of spec/opcode_table.json, each a call of its own meaning. -/

namespace Sys2Proof.Machine

def exec (i : Instr) (s : State) : Host.Outcome State Fault Refusal :=
  match i with
  | .reset => Sys2Proof.Machine.execReset s
  | .rdctrl => Sys2Proof.Machine.execRdctrl s
  | .wrctrl v => Sys2Proof.Machine.execWrctrl v s
  | .rdbyte => Sys2Proof.Machine.execRdbyte s
  | .wrbyte v => Sys2Proof.Machine.execWrbyte v s
  | .rdcu => Sys2Proof.Machine.execRdcu s
  | .wrcu v => Sys2Proof.Machine.execWrcu v s
  | .rdflags => Sys2Proof.Machine.execRdflags s
  | .wrflags v => Sys2Proof.Machine.execWrflags v s
  | .rdrsv idx => Sys2Proof.Machine.execRdrsv idx s
  | .wrrsv idx v => Sys2Proof.Machine.execWrrsv idx v s
  | .illegal => Sys2Proof.Machine.execIllegal s

end Sys2Proof.Machine
end

