-- ==== Sys2Proof/Machine/Fetch.lean ====
section
/-! DEFINITION. The next event of the host: taking it from the sequence, performing it, and placing a word there. -/

namespace Sys2Proof.Machine

/-- Performing one event of the host. A word is decoded under the index map and executed (30_encoding R67); every other
event is refused under its own name (93_implementation_defined I18 to I21; log entry 19). -/
def perform (e : HostEvent) (s : State) : Host.Outcome State Fault Refusal :=
  match e with
  | .word w => exec (decode s.config.addrs w) s
  | .overlong _ => .refused .notAnAccessWord
  | .otherWidth _ _ => .refused .accessWidth
  | .fetch _ => .refused .instructionFetch
  | .secondAgent _ => .refused .secondAgent
  | .resetDuring _ => .refused .resetDuringAccess

/-- The state with the event that is being performed taken off the host's sequence. -/
def dropEvent (rest : List HostEvent) (s : State) : State := { s with pending := rest }

/-- The host event of a pattern of bits: an access word, or a pattern too long to be one (30_encoding R62). -/
def eventOfBits (nbits w : Nat) : HostEvent :=
  if w % 2 ^ nbits < 2 ^ 18 then .word (BitVec.ofNat 18 (w % 2 ^ nbits)) else .overlong (w % 2 ^ nbits)

/-- The host issues one more event, before those it has still to issue. -/
def issueNext (e : HostEvent) (s : State) : State := { s with pending := e :: s.pending }

/-- The host issues a sequence of access words, after those it has still to issue: "exactly once, in order"
(70_reset_and_hazards R123, 20_memory R57). Nothing else is set up: the block has "no vector table, stack or memory map of
its own" (R123). How the platform maps its addresses to indices is log entry 32. -/
def issueAll (ws : List AccessWord) (s : State) : State := { s with pending := s.pending ++ ws.map .word }

end Sys2Proof.Machine
end

