-- ==== Sys2Proof/Machine/Step.lean ====
section
/-! DEFINITION. One step: the host's next event, or nothing. -/

namespace Sys2Proof.Machine

/-- One step of a run (70_reset_and_hazards R132): the next event of the host is performed as one atomic step (00_scope
R19). With nothing issued the block keeps its state (10_state R41; log entry 2). -/
def step (s : State) : Host.Outcome State Fault Refusal :=
  match s.pending with
  | [] => .next s
  | e :: rest => perform e (dropEvent rest s)

/-- The state whose next step performs the given word (log entry 1). -/
def State.withFetchWord (s : State) (nbits w : Nat) : State := issueNext (eventOfBits nbits w) s

end Sys2Proof.Machine
end

