-- ==== Sys2Proof/Safety.lean ====
section
/-! DEFINITION. What claims use: the invariants of 10_state, a run of several operations, and which accesses
93_implementation_defined lets a claim about the chip rest on. -/

namespace Sys2Proof.Machine

/-- The invariants of every reachable state (10_state R40). -/
abbrev State.Inv (s : State) : Prop :=
  (s.bb.wp ≤ Cb ∧ s.bb.rp ≤ Cb ∧ s.cb.wp ≤ Cc ∧ s.cb.rp ≤ Cc) ∧
  (s.ist = true → s.bb.wp = 0 ∧ s.cb.wp = 0 ∧ s.cb.cfg = .none) ∧
  (s.ost = true → s.bb.rp = 0 ∧ s.cb.rp = 0) ∧
  (s.config.inResetRewindsRp = true → s.bb.rp ≤ s.bb.wp ∧ s.cb.rp ≤ s.cb.wp)

/-- The tag says NONE exactly when nothing has been pushed since the last input reset (10_state R37). -/
abbrev State.TagInv (s : State) : Prop := s.cb.cfg = .none ↔ s.cb.wp = 0

/-- The block's part of two states is the same: the tuple S of 10_state R23. -/
abbrev SameBlock (s t : State) : Prop :=
  s.ctl = t.ctl ∧ s.ist = t.ist ∧ s.ost = t.ost ∧ s.bb = t.bb ∧ s.cb = t.cb

/-- Operations performed in order, stopping at a refusal (70_reset_and_hazards R132). -/
def execAll : List Instr → State → Host.Outcome State Fault Refusal
  | [], s => .next s
  | i :: rest, s =>
    match exec i s with
    | .next t => execAll rest t
    | .fault r => .fault r
    | .refused r => .refused r

/-- Several steps in a row, stopping at a refusal. -/
def steps : Nat → State → Host.Outcome State Fault Refusal
  | 0, s => .next s
  | n + 1, s =>
    match step s with
    | .next t => steps n t
    | .fault r => .fault r
    | .refused r => .refused r

/-- The bytes `b_0, b_1, …` pushed into the code-unit buffer since the last input reset (42_code_unit_buffer R92), after one
more operation; a push when full is dropped and so adds none. -/
def pushedSince (i : Instr) (s : State) (bs : List Byte) : List Byte :=
  match i with
  | .reset => []
  | .wrctrl v => if v[7] then bs else []
  | .wrcu v => if s.ctl.dir = .write ∧ s.cb.wp < Cc then bs ++ [v] else bs
  | .rdctrl | .rdbyte | .wrbyte _ | .rdcu | .rdflags | .wrflags _ | .rdrsv _ | .wrrsv _ _ | .illegal => bs

/-- The code-unit buffer holds the bytes `bs` pushed since the last input reset, as its tag says they were pushed (10_state
R37): none, all LE, or all BE(W). Pushes of several configurations (MIXED) fix no lane. That the lanes are those of the
reference mechanism under every placement is log entry 24. -/
def HoldsPushed (bs : List Byte) (s : State) : Prop :=
  s.cb.wp = bs.length ∧ (s.cb.cfg = .none ↔ bs = []) ∧
  (s.cb.cfg = .le → ∀ (i : Nat) (h : i < bs.length), cellAt s.cb.lane i = bs[i]) ∧
  ∀ w : UnitWidth, s.cb.cfg = .be w → ∀ (i : Nat) (h : i < bs.length), cellAt s.cb.lane (laneOf i true w) = bs[i]

/-- The accesses a claim about the chip may rest on, read from the "chip claims" column of 93_implementation_defined: no
reserved index (I8, I9), no illegal word (I10), no wrong-direction access (I11, I12), no write of FLAGS (I17), no push
beyond the capacity (I23). The value of a mechanism-dependent pop is a draw (I1, I2) and so needs no exclusion. That a claim
reads no control field before writing CTRL (I5) is a matter of the run, not of one state. -/
def chipSupported (i : Instr) (s : State) : Bool :=
  match i with
  | .reset | .rdctrl | .wrctrl _ | .rdflags => true
  | .rdbyte | .rdcu => decide (s.ctl.dir = .read)
  | .wrbyte _ => decide (s.ctl.dir = .write) && decide (s.bb.wp < Cb)
  | .wrcu _ => decide (s.ctl.dir = .write) && decide (s.cb.wp < Cc)
  | .wrflags _ | .rdrsv _ | .wrrsv _ _ | .illegal => false

/-- A run all of whose operations a claim about the chip may rest on. -/
def chipRun : List Instr → State → Bool
  | [], _ => true
  | i :: rest, s =>
    chipSupported i s &&
      match exec i s with
      | .next t => chipRun rest t
      | .fault _ => false
      | .refused _ => false

/-- The outcome with a function applied to its next state. -/
def mapNext (f : State → State) : Host.Outcome State Fault Refusal → Host.Outcome State Fault Refusal
  | .next t => .next (f t)
  | .fault r => .fault r
  | .refused r => .refused r

/-- The state with other values of EREN and RCEN (10_state R24, R25). -/
def withChecks (eren rcen : Bool) (s : State) : State := { s with ctl := { s.ctl with eren := eren, rcen := rcen } }

/-- Two states that differ at most in byte-buffer cells at or above the write pointer (10_state R31). -/
def SameLiveCells (s t : State) : Prop :=
  ∃ d : Vector Byte Cb, t = { s with bb := { s.bb with data := d } } ∧
    ∀ i, i < s.bb.wp → cellAt d i = cellAt s.bb.data i

/-! ### Sequences of pushes and pops (41_byte_buffer R82, 42_code_unit_buffer R94) -/

/-- One host action on one buffer: a direction change through `cfg`, a push or a pop (30_encoding R71). -/
inductive BufOp where
  | cfg (f : Byte)
  | push (v : Byte)
  | pop
  deriving DecidableEq, Repr

/-- The operation on the byte buffer; `cfg f` writes `(f & 0x7E) | 0x81` (30_encoding R71). -/
def BufOp.onByte : BufOp → Instr
  | .cfg f => .wrctrl ((f &&& 0x7E) ||| 0x81)
  | .push v => .wrbyte v
  | .pop => .rdbyte

/-- The operation on the code-unit buffer. -/
def BufOp.onUnit : BufOp → Instr
  | .cfg f => .wrctrl ((f &&& 0x7E) ||| 0x81)
  | .push v => .wrcu v
  | .pop => .rdcu

/-- Every push is made with DIR = Write, every pop with DIR = Read, and "the number of pops never exceeds the number of
pushes so far" (41_byte_buffer R82). The arguments are the current direction and the bytes pushed and not yet popped. -/
def legalOps : Direction → Nat → List BufOp → Bool
  | _, _, [] => true
  | _, n, .cfg f :: rest => legalOps (dirOfBit (f[4])) n rest
  | d, n, .push _ :: rest => decide (d = .write) && legalOps d (n + 1) rest
  | _, 0, .pop :: _ => false
  | d, n + 1, .pop :: rest => decide (d = .read) && legalOps d n rest

/-- The bytes a sequence pushes, in order. -/
def pushedBytes : List BufOp → List Byte
  | [] => []
  | .push v :: rest => v :: pushedBytes rest
  | .cfg _ :: rest | .pop :: rest => pushedBytes rest

/-- How many pops a sequence makes. -/
def popCount : List BufOp → Nat
  | [] => 0
  | .pop :: rest => popCount rest + 1
  | .cfg _ :: rest | .push _ :: rest => popCount rest

/-- Every pop of a sequence of legal operations, all under one BEND and W, is a contract result: with BEND = 1 the unit that
holds its byte is complete by then (42_code_unit_buffer R92). The numbers are the bytes pushed and popped so far. -/
def contractOps (bend : Bool) (w : UnitWidth) : Nat → Nat → List BufOp → Bool
  | _, _, [] => true
  | wp, rp, .cfg _ :: rest => contractOps bend w wp rp rest
  | wp, rp, .push _ :: rest => contractOps bend w (wp + 1) rp rest
  | wp, rp, .pop :: rest => (!bend || unitComplete wp rp w) && contractOps bend w wp (rp + 1) rest

/-- Every `cfg` of a sequence keeps the given BEND and WSEL (42_code_unit_buffer R94). -/
def keepsPlacement (bend : Bool) (wsel : BitVec 2) (ops : List BufOp) : Bool :=
  ops.all fun
    | .cfg f => f[3] == bend && f.extractLsb' 5 2 == wsel
    | .push _ | .pop => true

end Sys2Proof.Machine
end

