-- ==== Sys2Proof/Certificates/Slice0/Obligations.lean ====
section
/-! DEFINITION. The statements for the provers, family by family. A statement whose conclusion is an equation
`exec i s = .next { s with … }` states the result, the frame (every field not named is unchanged) and the completion at once. -/

open Sys2Proof Sys2Proof.Machine

/-! ### Encoding -/

/-- Words the spec writes out (30_encoding R70, R71, 95_test_vectors) decode to the operations they stand for. -/
def Obligations.SpecExampleWordsDecode : Prop :=
  decode .reference 0x00000 = .rdctrl ∧ decode .reference 0x1008F = .wrctrl 0x8F ∧
  decode .reference 0x00100 = .rdbyte ∧ decode .reference 0x101FD = .wrbyte 0xFD ∧
  decode .reference 0x00200 = .rdcu ∧ decode .reference 0x10212 = .wrcu 0x12 ∧
  decode .reference 0x00300 = .rdflags ∧ decode .reference 0x103FF = .wrflags 0xFF ∧
  decode .reference 0x01000 = .rdrsv 16 ∧ decode .reference 0x1C855 = .wrrsv 200 0x55 ∧
  decode .reference 0x20000 = .reset ∧ decode .reference 0x2ABCD = .reset ∧
  decode .reference 0x30000 = .illegal

/-- No operand bit is dropped: under every index map of four distinct indices, decoding an encoded well-formed operation
gives it back (30_encoding R62, R63, R65, R67). -/
def Obligations.DecodeInvertsEncode : Prop :=
  ∀ (m : AddrMap) (i : Instr), m.distinct = true → i.wellFormed m = true → decode m (encode m i) = i

/-- Encoding a decoded word gives the word with its ignored bits written 0 (30_encoding R64). -/
def Obligations.EncodeOfDecodeClearsIgnoredBits : Prop :=
  ∀ (m : AddrMap) (w : AccessWord), encode m (decode m w) = clearIgnored w

/-- R64: DATA of a read and IDX and DATA of a reset have no meaning to the decoder, and the assembler writes 0 there. -/
def Obligations.IgnoredFieldsHaveNoMeaning : Prop :=
  ∀ m : AddrMap,
    (∀ (idx : Index) (d d' : Byte), decode m (packWord 0b00 idx d) = decode m (packWord 0b00 idx d')) ∧
    (∀ (idx idx' : Index) (d d' : Byte), decode m (packWord 0b10 idx d) = decode m (packWord 0b10 idx' d')) ∧
    (∀ i : Instr, i.kind = 0b00#2 → dataOf (encode m i) = 0) ∧
    (∀ i : Instr, i.kind = 0b10#2 → idxOf (encode m i) = 0 ∧ dataOf (encode m i) = 0)

/-- R67: every access word matches exactly one row of opcode_table.json, and the decoder gives that row's operation. -/
def Obligations.EveryWordIsExactlyOneTableRow : Prop :=
  ∀ w : AccessWord, (opcodeTable.filter (·.covers w)).map (·.mnemonic) = [(decode .reference w).mnemonic]

/-- R67 under any index map of four distinct indices: KIND and IDX select the operation, whatever DATA is; each register's
accesses take that register's index, and the reserved operations every other index. -/
def Obligations.OpcodeMapFollowsIndexMap : Prop :=
  ∀ (m : AddrMap) (d : Byte), m.distinct = true →
    (∀ w w' : AccessWord, kindOf w = kindOf w' → idxOf w = idxOf w' → (decode m w).mnemonic = (decode m w').mnemonic) ∧
    decode m (packWord 0b00 m.ctrl d) = .rdctrl ∧ decode m (packWord 0b01 m.ctrl d) = .wrctrl d ∧
    decode m (packWord 0b00 m.byte d) = .rdbyte ∧ decode m (packWord 0b01 m.byte d) = .wrbyte d ∧
    decode m (packWord 0b00 m.cu d) = .rdcu ∧ decode m (packWord 0b01 m.cu d) = .wrcu d ∧
    decode m (packWord 0b00 m.flags d) = .rdflags ∧ decode m (packWord 0b01 m.flags d) = .wrflags d ∧
    (∀ i : Index, i ≠ m.ctrl → i ≠ m.byte → i ≠ m.cu → i ≠ m.flags →
      decode m (packWord 0b00 i d) = .rdrsv i ∧ decode m (packWord 0b01 i d) = .wrrsv i d) ∧
    (∀ i : Index, decode m (packWord 0b10 i d) = .reset ∧ decode m (packWord 0b11 i d) = .illegal)

/-- Whatever the word, the decoder answers an operation whose operands are legal (30_encoding R67, R68). -/
def Obligations.DecodedOperationsAreWellFormed : Prop :=
  ∀ (m : AddrMap) (w : AccessWord), (decode m w).wellFormed m = true

/-- The pseudo-instructions of R71 as operations: what each expansion decodes to, and what the four control forms do. -/
def Obligations.PseudoInstructionsMeanTheirEffect : Prop :=
  ∀ (m : AddrMap) (s : State) (f v : Byte), m.distinct = true →
    decode m ((Pseudo.pushB v).expand.word m) = .wrbyte v ∧ decode m (Pseudo.popB.expand.word m) = .rdbyte ∧
    decode m ((Pseudo.pushU v).expand.word m) = .wrcu v ∧ decode m (Pseudo.popU.expand.word m) = .rdcu ∧
    decode m (Pseudo.flags.expand.word m) = .rdflags ∧
    exec (decode m ((Pseudo.cfg f).expand.word m)) s = .next (storeFields f s) ∧
    exec (decode m ((Pseudo.rstIn f).expand.word m)) s = .next (inputReset (storeFields f s)) ∧
    exec (decode m ((Pseudo.rstOut f).expand.word m)) s = .next (outputReset (storeFields f s)) ∧
    exec (decode m ((Pseudo.rstAll f).expand.word m)) s = .next (outputReset (inputReset (storeFields f s)))

/-! ### Reset -/

/-- RESET sets every element of S to its reset value; FLAGS then reads 0x05 and CTRL 0x81 | the field bits of
CTRL_RESET_FIELDS, which is 0x8F with the reference values (R120). That it leaves the model's own fields config, pending,
results and draws, which the equation says too, is the model's choice (log entry 31). -/
def Obligations.ResetSetsEveryElement : Prop :=
  ∀ s : State, ∃ t : State, exec .reset s = .next t ∧
    t = { s with
      ctl := s.config.ctrlReset, ist := true, ost := true
      bb := { data := Vector.replicate Cb 0x00, wp := 0, rp := 0 }
      cb := { lane := Vector.replicate Cc 0x00, wp := 0, rp := 0, cfg := .none } } ∧
    flagsByte t = 0x05 ∧ ctrlByte t = (0x81 ||| fieldsByte s.config.ctrlReset) ∧
    (s.config.ctrlReset = .reference → ctrlByte t = 0x8F)

/-- The state the model starts in has every value the spec fixes for reset (10_state R29 to R37, R43). -/
def Obligations.ResetStateHoldsFixedResetValues : Prop :=
  State.reset.ist = true ∧ State.reset.ost = true ∧
  State.reset.bb = { data := Vector.replicate Cb 0x00, wp := 0, rp := 0 } ∧
  State.reset.cb = { lane := Vector.replicate Cc 0x00, wp := 0, rp := 0, cfg := .none } ∧
  flagsByte State.reset = 0x05 ∧ State.reset.ctl = State.reset.config.ctrlReset

/-- The reset state meets the invariants of R40 and the meaning of the tag (R37), with no byte pushed yet. -/
def Obligations.ResetStateMeetsInvariants : Prop := State.reset.Inv ∧ State.reset.TagInv ∧ HoldsPushed [] State.reset

/-- An explicit reset gives the block of the reset state, whatever happened before (R121), if the parameters are the same. -/
def Obligations.ExplicitResetIsPowerOnReset : Prop :=
  ∀ s : State, s.config.ctrlReset = State.reset.config.ctrlReset →
    ∃ t : State, exec .reset s = .next t ∧ SameBlock t State.reset

/-! ### Control/status register -/

/-- R72: RDCTRL answers the stored fields at bits 6:1 and the live status at bits 7 and 0, and changes no state. -/
def Obligations.ReadControlAnswersFieldsAndStatus : Prop :=
  ∀ s : State, ∃ v : Byte, exec .rdctrl s = .next { s with results := s.results ++ [v] } ∧
    v[7] = s.ist ∧ v.extractLsb' 5 2 = s.ctl.wsel ∧ v[4] = decide (s.ctl.dir = .read) ∧
    v[3] = s.ctl.bend ∧ v[2] = s.ctl.rcen ∧ v[1] = s.ctl.eren ∧ v[0] = s.ost

/-- R73: WRCTRL stores the five fields and pulses the two resets, for every written value. -/
def Obligations.WriteControlStoresFieldsAndPulsesResets : Prop :=
  ∀ (v : Byte) (s : State), exec (.wrctrl v) s = .next { s with
    ctl :=
      { eren := v[1], rcen := v[2], bend := v[3]
        dir := if v[4] then .read else .write, wsel := v.extractLsb' 5 2 }
    ist := if v[7] then s.ist else true
    ost := if v[0] then s.ost else true
    bb :=
      { data := if v[7] then s.bb.data else Vector.replicate Cb 0x00
        wp := if v[7] then s.bb.wp else 0
        rp := if !v[0] || (!v[7] && s.config.inResetRewindsRp) then 0 else s.bb.rp }
    cb :=
      { lane := if v[7] then s.cb.lane else Vector.replicate Cc 0x00
        wp := if v[7] then s.cb.wp else 0
        rp := if !v[0] || (!v[7] && s.config.inResetRewindsRp) then 0 else s.cb.rp
        cfg := if v[7] then s.cb.cfg else .none } }

/-- R97: a CTRL write with bit 7 = 0 (and bit 0 = 1) empties both buffers and sets IST; OST is not changed, the read pointers
only with IN_RESET_REWINDS_RP; then BFULL = UFULL = 0 and BEMPTY = UEMPTY = 1. -/
def Obligations.InputResetEmptiesBothBuffers : Prop :=
  ∀ (v : Byte) (s : State), v[7] = false → v[0] = true →
    ∃ t : State, exec (.wrctrl v) s = .next t ∧
      t = { s with
        ctl := ctlOfByte v, ist := true
        bb := { data := Vector.replicate Cb 0x00, wp := 0, rp := if s.config.inResetRewindsRp then 0 else s.bb.rp }
        cb := { lane := Vector.replicate Cc 0x00, wp := 0,
                rp := if s.config.inResetRewindsRp then 0 else s.cb.rp, cfg := .none } } ∧
      bfull t = false ∧ ufull t = false ∧ bempty t = true ∧ uempty t = true

/-- R98: a CTRL write with bit 0 = 0 (and bit 7 = 1) rewinds both read pointers and sets OST, and keeps cells, lanes, write
pointers, the tag and IST; BEMPTY and UEMPTY become "write pointer is 0", BFULL and UFULL stay. -/
def Obligations.OutputResetRewindsBothReadPointers : Prop :=
  ∀ (v : Byte) (s : State), v[7] = true → v[0] = false →
    ∃ t : State, exec (.wrctrl v) s = .next t ∧
      t = { s with ctl := ctlOfByte v, ost := true, bb := { s.bb with rp := 0 }, cb := { s.cb with rp := 0 } } ∧
      bempty t = decide (s.bb.wp = 0) ∧ uempty t = decide (s.cb.wp = 0) ∧ bfull t = bfull s ∧ ufull t = ufull s

/-- R101: the two resets of one write may be done in either order, before or after the field store. -/
def Obligations.ResetPulsesCommute : Prop :=
  ∀ (v : Byte) (s : State), v[7] = false → v[0] = false →
    exec (.wrctrl v) s = .next (outputReset (inputReset (storeFields v s))) ∧
    exec (.wrctrl v) s = .next (inputReset (outputReset (storeFields v s))) ∧
    exec (.wrctrl v) s = .next (storeFields v (inputReset (outputReset s)))

/-- R102: OutputReset changes no input-side state; InputReset with IN_RESET_REWINDS_RP false no output-side state; each is
idempotent. -/
def Obligations.ResetsAreIsolatedAndIdempotent : Prop :=
  ∀ s : State,
    ((outputReset s).bb.data = s.bb.data ∧ (outputReset s).bb.wp = s.bb.wp ∧ (outputReset s).cb.lane = s.cb.lane ∧
      (outputReset s).cb.wp = s.cb.wp ∧ (outputReset s).cb.cfg = s.cb.cfg ∧ (outputReset s).ist = s.ist) ∧
    (s.config.inResetRewindsRp = false →
      (inputReset s).bb.rp = s.bb.rp ∧ (inputReset s).cb.rp = s.cb.rp ∧ (inputReset s).ost = s.ost) ∧
    inputReset (inputReset s) = inputReset s ∧ outputReset (outputReset s) = outputReset s

/-- Writing one value to CTRL twice leaves the state the first write left (20_memory R52). -/
def Obligations.ControlWriteIsIdempotent : Prop :=
  ∀ (v : Byte) (s : State), ∃ t : State, exec (.wrctrl v) s = .next t ∧ exec (.wrctrl v) t = .next t

/-- The read-modify-write hazard (R125): a value whose status bits are those just read resets every side whose status read 0
(IST: write pointers, contents and tag; OST: read pointers). A side whose status read 1 is kept: cells, lanes, write pointers
and tag for IST; the read pointers for OST, in every state that meets the invariants of R40. `(read & 0x7E) | 0x81` changes
nothing. -/
def Obligations.WritingBackReadStatusResets : Prop :=
  ∀ (v : Byte) (s : State), v[7] = s.ist → v[0] = s.ost →
    (∃ t : State, exec (.wrctrl v) s = .next t ∧ t.ctl = ctlOfByte v ∧ t.ist = true ∧ t.ost = true ∧
      (s.ist = false → t.bb.data = Vector.replicate Cb 0x00 ∧ t.bb.wp = 0 ∧
        t.cb.lane = Vector.replicate Cc 0x00 ∧ t.cb.wp = 0 ∧ t.cb.cfg = .none) ∧
      (s.ost = false → t.bb.rp = 0 ∧ t.cb.rp = 0) ∧
      (s.ist = true → t.bb.data = s.bb.data ∧ t.bb.wp = s.bb.wp ∧
        t.cb.lane = s.cb.lane ∧ t.cb.wp = s.cb.wp ∧ t.cb.cfg = s.cb.cfg) ∧
      (s.Inv → s.ost = true → t.bb.rp = s.bb.rp ∧ t.cb.rp = s.cb.rp) ∧
      (s.ist = true → s.ost = true → t.bb = s.bb ∧ t.cb = s.cb)) ∧
    exec (.wrctrl ((ctrlByte s &&& 0x7E) ||| 0x81)) s = .next s

/-- R74: EREN and RCEN are read back by RDCTRL and no other operation depends on them. -/
def Obligations.CheckEnablesHaveNoEffect : Prop :=
  ∀ (s : State) (e r : Bool),
    (∀ i : Instr, i ≠ .rdctrl → i ≠ .reset → (∀ v : Byte, i ≠ .wrctrl v) →
      exec i (withChecks e r s) = mapNext (withChecks e r) (exec i s)) ∧
    exec .reset (withChecks e r s) = exec .reset s ∧
    (∀ v : Byte, exec (.wrctrl v) (withChecks e r s) = exec (.wrctrl v) s) ∧
    (∃ v : Byte, exec .rdctrl (withChecks e r s) = .next (answer v (withChecks e r s)) ∧
      v[1] = e ∧ v[2] = r ∧ ∀ k, k ≠ 1 → k ≠ 2 → v.getLsbD k = (ctrlByte s).getLsbD k)

/-- The new fields govern the very next operation: right after a CTRL write, a data access is routed by the DIR written
(R75, R96). -/
def Obligations.ControlWriteGovernsNextAccess : Prop :=
  ∀ (v b : Byte) (s : State), ∃ t : State, exec (.wrctrl v) s = .next t ∧
    (v[4] = false → exec (.wrbyte b) t = .next (pushB b t) ∧ exec (.wrcu b) t = .next (pushU b t)) ∧
    (v[4] = true → exec .rdbyte t = .next (answer t.bb.front (popB t)) ∧
      exec .rdcu t = .next (answer (frontU t) (popU t)))

/-! ### Byte buffer -/

/-- R77: a push below capacity stores the byte at the write pointer; a push when full is dropped; IST becomes 0 either
way. BFULL becomes 1 exactly at the push that stores the last byte. -/
def Obligations.PushByteStoresOrDrops : Prop :=
  ∀ (v : Byte) (s : State), s.ctl.dir = .write →
    (∀ h : s.bb.wp < Cb,
      exec (.wrbyte v) s = .next { s with bb := { s.bb with data := s.bb.data.set s.bb.wp v h, wp := s.bb.wp + 1 }, ist := false }) ∧
    (¬ s.bb.wp < Cb → exec (.wrbyte v) s = .next { s with ist := false }) ∧
    (s.bb.wp ≤ Cb → ∃ t : State, exec (.wrbyte v) s = .next t ∧
      (bfull t = true ↔ Cb ≤ s.bb.wp + 1) ∧
      (bempty t = true ↔ ¬ s.bb.rp < (if s.bb.wp < Cb then s.bb.wp + 1 else s.bb.wp)))

/-- R78 and R88: a write of BYTE or CU while DIR = Read changes nothing. -/
def Obligations.WrongDirectionWritesAreIgnored : Prop :=
  ∀ (v : Byte) (s : State), s.ctl.dir = .read → exec (.wrbyte v) s = .next s ∧ exec (.wrcu v) s = .next s

/-- R80: a pop returns the byte at the read pointer and advances it, clearing OST; from an empty buffer it returns 0x00, moves
no pointer, and clears OST only with EMPTY_POP_CLEARS_OST. No cell changes. -/
def Obligations.PopByteReturnsOldestOrSentinel : Prop :=
  ∀ s : State, s.ctl.dir = .read →
    (∀ h : s.bb.rp < Cb, s.bb.rp < s.bb.wp →
      exec .rdbyte s = .next { s with
        bb := { s.bb with rp := s.bb.rp + 1 }, ost := false, results := s.results ++ [s.bb.data[s.bb.rp]] }) ∧
    (¬ s.bb.rp < s.bb.wp →
      exec .rdbyte s = .next { s with
        ost := if s.config.emptyPopClearsOst then false else s.ost, results := s.results ++ [0x00] }) ∧
    (∃ t : State, exec .rdbyte s = .next t ∧
      (bempty t = true ↔ ¬ (if s.bb.rp < s.bb.wp then s.bb.rp + 1 else s.bb.rp) < s.bb.wp))

/-- R81 and R91: a read of BYTE or CU while DIR = Write answers 0x00 and changes no state. -/
def Obligations.WrongDirectionReadsAnswerZero : Prop :=
  ∀ s : State, s.ctl.dir = .write →
    exec .rdbyte s = .next { s with results := s.results ++ [0x00] } ∧
    exec .rdcu s = .next { s with results := s.results ++ [0x00] }

/-- R83: once BB.wp = C_b, any number of further pushes leaves the buffer as it is and BFULL stays 1. -/
def Obligations.FullByteBufferDropsEveryPush : Prop :=
  ∀ (vs : List Byte) (s : State), s.ctl.dir = .write → s.bb.wp = Cb →
    ∃ t : State, execAll (vs.map .wrbyte) s = .next t ∧ t.bb = s.bb ∧ bfull t = true

/-- R83: once BB.rp >= BB.wp, any number of further pops answers 0x00 each time, leaves the buffer as it is, and BEMPTY
stays 1. -/
def Obligations.EmptyByteBufferAnswersZeroForever : Prop :=
  ∀ (n : Nat) (s : State), s.ctl.dir = .read → s.bb.wp ≤ s.bb.rp →
    ∃ t : State, execAll (List.replicate n .rdbyte) s = .next t ∧
      t.results = s.results ++ List.replicate n 0x00 ∧ t.bb = s.bb ∧ bempty t = true

/-- R83: BFULL falls to 0 only at an input reset or at RESET; in particular no pop frees capacity. -/
def Obligations.OnlyResetsFreeCapacity : Prop :=
  ∀ (i : Instr) (s t : State), exec i s = .next t →
    (bfull s = true → bfull t = false → i = .reset ∨ ∃ v : Byte, i = .wrctrl v ∧ v[7] = false) ∧
    (ufull s = true → ufull t = false → i = .reset ∨ ∃ v : Byte, i = .wrctrl v ∧ v[7] = false)

/-- R82, FIFO order: from empty pointers, any sequence of at most C_b pushes, of pops that never outnumber the pushes so
far, and of direction changes through `cfg`, pops the bytes in the order they were pushed. -/
def Obligations.ByteBufferIsFifo : Prop :=
  ∀ (s : State) (ops : List BufOp), s.bb.wp = 0 → s.bb.rp = 0 → (pushedBytes ops).length ≤ Cb →
    legalOps s.ctl.dir 0 ops = true →
    ∃ t : State, execAll (ops.map BufOp.onByte) s = .next t ∧
      t.results = s.results ++ (pushedBytes ops).take (popCount ops)

/-- R84, replay: an output reset keeps the cells and the write pointer, so the next BB.wp pops return the stored bytes from
the first one again. -/
def Obligations.OutputResetReplaysByteBuffer : Prop :=
  ∀ (v : Byte) (s : State), s.bb.wp ≤ Cb → v[7] = true → v[0] = false → v[4] = true →
    ∃ t : State, execAll (.wrctrl v :: List.replicate s.bb.wp .rdbyte) s = .next t ∧
      t.results = s.results ++ s.bb.data.toList.take s.bb.wp ∧ t.bb.data = s.bb.data ∧ t.bb.wp = s.bb.wp

/-- R31: byte-buffer cells at or above the write pointer are never read: two states that differ only there answer alike, and
go on differing only there. -/
def Obligations.DeadCellsAreUnobservable : Prop :=
  ∀ (i : Instr) (s t s' : State), SameLiveCells s t → exec i s = .next s' →
    ∃ t' : State, exec i t = .next t' ∧ SameLiveCells s' t' ∧ t'.results = s'.results

/-- R128: with IN_RESET_REWINDS_RP false, after an input reset without an output reset, pops answer 0x00 and the read
pointer stays where it was. -/
def Obligations.InputResetAloneLeavesReadPointer : Prop :=
  ∀ (v : Byte) (n : Nat) (s : State), s.config.inResetRewindsRp = false →
    v[7] = false → v[0] = true → v[4] = true →
    ∃ t : State, execAll (.wrctrl v :: List.replicate n .rdbyte) s = .next t ∧
      t.results = s.results ++ List.replicate n 0x00 ∧ t.bb.rp = s.bb.rp ∧ t.bb.wp = 0

/-! ### Code-unit buffer -/

/-- R85: the lane table of the mirrored-lane mechanism, and for fixed BEND and W laneOf is a bijection of [0, C_c). -/
def Obligations.LaneTableIsBijective : Prop :=
  ((∀ w : UnitWidth, [0, 1, 2, 3].map (laneOf · false w) = [0, 1, 2, 3]) ∧
    [0, 1, 2, 3].map (laneOf · true .w1) = [0, 1, 2, 3] ∧
    [0, 1, 2, 3].map (laneOf · true .w2) = [1, 0, 3, 2] ∧
    [0, 1, 2, 3].map (laneOf · true .w4) = [3, 2, 1, 0]) ∧
  ∀ (be : Bool) (w : UnitWidth),
    (∀ i, i < Cc → laneOf i be w < Cc) ∧
    (∀ i j, i < Cc → j < Cc → laneOf i be w = laneOf j be w → i = j) ∧
    (∀ k, k < Cc → ∃ i, i < Cc ∧ laneOf i be w = k)

/-- R87: a push below capacity writes, under the reference mechanism (the only one the spec gives a lane function, R85), the
lane of the write pointer under the current BEND and W; under every placement it advances the write pointer, updates the tag
and changes no field but the lanes and IST; a push when full is dropped; IST becomes 0 either way; UFULL becomes 1 at the
fourth push. -/
def Obligations.PushUnitStoresInLaneOrDrops : Prop :=
  ∀ (v : Byte) (s : State), s.ctl.dir = .write →
    let w := widthOf s.config.widths s.ctl.wsel
    let k : CuTag := if s.ctl.bend then .be w else .le
    (∀ h : laneOf s.cb.wp s.ctl.bend w < Cc, s.config.placement = .mirroredLane → s.cb.wp < Cc →
      exec (.wrcu v) s = .next { s with
        cb := { s.cb with
          lane := s.cb.lane.set (laneOf s.cb.wp s.ctl.bend w) v h, wp := s.cb.wp + 1
          cfg := if s.cb.cfg = .none then k else if s.cb.cfg = k then k else .mixed }
        ist := false }) ∧
    (s.cb.wp < Cc → laneOf s.cb.wp s.ctl.bend w < Cc) ∧
    (s.cb.wp < Cc → ∃ lane : Vector Byte Cc, exec (.wrcu v) s = .next { s with
      cb := { s.cb with
        lane := lane, wp := s.cb.wp + 1
        cfg := if s.cb.cfg = .none then k else if s.cb.cfg = k then k else .mixed }
      ist := false }) ∧
    (¬ s.cb.wp < Cc → exec (.wrcu v) s = .next { s with ist := false }) ∧
    (s.cb.wp ≤ Cc → ∃ t : State, exec (.wrcu v) s = .next t ∧
      (ufull t = true ↔ Cc ≤ s.cb.wp + 1) ∧
      (uempty t = true ↔ ¬ s.cb.rp < (if s.cb.wp < Cc then s.cb.wp + 1 else s.cb.wp)))

/-- R90, with the reference mechanism: a pop returns the byte of the read pointer's lane under the current BEND and W,
advances the read pointer and clears OST; from an empty buffer it answers 0x00. -/
def Obligations.PopUnitReturnsLaneOrSentinel : Prop :=
  ∀ s : State, s.ctl.dir = .read → s.config.placement = .mirroredLane →
    (∀ h : laneOf s.cb.rp s.ctl.bend (widthOf s.config.widths s.ctl.wsel) < Cc, s.cb.rp < s.cb.wp →
      exec .rdcu s = .next { s with
        cb := { s.cb with rp := s.cb.rp + 1 }, ost := false
        results := s.results ++ [s.cb.lane[laneOf s.cb.rp s.ctl.bend (widthOf s.config.widths s.ctl.wsel)]] }) ∧
    (s.cb.rp < Cc → laneOf s.cb.rp s.ctl.bend (widthOf s.config.widths s.ctl.wsel) < Cc) ∧
    (¬ s.cb.rp < s.cb.wp →
      exec .rdcu s = .next { s with
        ost := if s.config.emptyPopClearsOst then false else s.ost, results := s.results ++ [0x00] }) ∧
    (∃ t : State, exec .rdcu s = .next t ∧
      (uempty t = true ↔ ¬ (if s.cb.rp < s.cb.wp then s.cb.rp + 1 else s.cb.rp) < s.cb.wp))

/-- An empty pop of the code-unit buffer answers 0x00 whatever the mechanism, and takes no draw (R90, R92: "An empty POPU
(sentinel 0x00) is always a contract result"). -/
def Obligations.EmptyPopUnitIsAlwaysSentinel : Prop :=
  ∀ s : State, s.ctl.dir = .read → ¬ s.cb.rp < s.cb.wp →
    exec .rdcu s = .next { s with
      ost := if s.config.emptyPopClearsOst then false else s.ost, results := s.results ++ [0x00] }

/-- R92, the two contract cases: (a) LE pushes and an LE pop, (b) BE(W) pushes, a BE(W) pop and a complete unit. There the
result is b_i, the i-th byte pushed since the last input reset, under every placement and with no draw. That this byte stands
in the reference mechanism's lane under the undetermined placement too, which the first clause says and HoldsPushed reads, is
the model's choice (log entry 24). That HoldsPushed is an invariant is StepKeepsTagMeaning. -/
def Obligations.ContractPopIsMechanismIndependent : Prop :=
  ∀ s : State, s.ctl.dir = .read → s.cb.rp < s.cb.wp →
    ((s.cb.cfg = .le ∧ s.ctl.bend = false) ∨
      (s.cb.cfg = .be (unitWidth s) ∧ s.ctl.bend = true ∧
        (s.cb.rp / (unitWidth s).bytes + 1) * (unitWidth s).bytes ≤ s.cb.wp)) →
    exec .rdcu s = .next { s with
      cb := { s.cb with rp := s.cb.rp + 1 }, ost := false
      results := s.results ++ [cellAt s.cb.lane (laneOf s.cb.rp s.ctl.bend (unitWidth s))] } ∧
    ∀ (bs : List Byte) (h : s.cb.rp < bs.length), HoldsPushed bs s →
      exec .rdcu s = .next { s with
        cb := { s.cb with rp := s.cb.rp + 1 }, ost := false, results := s.results ++ [bs[s.cb.rp]] }

/-- R92, every other stored-byte result when the mechanism is not known: MIXED pushes, pushes under another configuration, or
an incomplete BE unit. The byte is the next draw, on which nothing can be proved; pointer and status move as in R90. -/
def Obligations.MechanismDependentPopIsADraw : Prop :=
  ∀ s : State, s.ctl.dir = .read → s.config.placement = .undetermined → s.cb.rp < s.cb.wp →
    ¬ (s.cb.cfg = .le ∧ s.ctl.bend = false) →
    ¬ (s.cb.cfg = .be (unitWidth s) ∧ s.ctl.bend = true ∧
        (s.cb.rp / (unitWidth s).bytes + 1) * (unitWidth s).bytes ≤ s.cb.wp) →
    exec .rdcu s = .next { s with
      cb := { s.cb with rp := s.cb.rp + 1 }, ost := false
      results := s.results ++ [Config.freeByte s.draws], draws := s.draws + 1 }

/-- R94 under the reference mechanism: with BEND and WSEL held constant from empty pointers, any sequence of at most C_c
pushes and of pops that never outnumber the pushes so far returns the bytes in arrival order, complete units or not. -/
def Obligations.UnitBufferRoundTripsUnderConstantPlacement : Prop :=
  ∀ (s : State) (ops : List BufOp), s.config.placement = .mirroredLane → s.cb.wp = 0 → s.cb.rp = 0 →
    keepsPlacement s.ctl.bend s.ctl.wsel ops = true → (pushedBytes ops).length ≤ Cc →
    legalOps s.ctl.dir 0 ops = true →
    ∃ t : State, execAll (ops.map BufOp.onUnit) s = .next t ∧
      t.results = s.results ++ (pushedBytes ops).take (popCount ops)

/-- The contract part of R94 (case (a) or (b) of R92), under EVERY placement: from an input reset with the read pointer at 0,
under one BEND and W, pushes and pops in any order in which the pops never outnumber the pushes so far, every pop being of an
LE byte or of a byte of a unit complete by then, return the bytes in arrival order and take no draw. Bytes of an incomplete
last unit may have been pushed: they are not popped here. -/
def Obligations.ContractRoundTripUnderEveryPlacement : Prop :=
  ∀ (s : State) (f : Byte) (ops : List BufOp), s.cb.wp = 0 → s.cb.rp = 0 → s.cb.cfg = .none →
    keepsPlacement (f[3]) (f.extractLsb' 5 2) ops = true → (pushedBytes ops).length ≤ Cc →
    legalOps (dirOfBit (f[4])) 0 ops = true →
    contractOps (f[3]) (widthOf s.config.widths (f.extractLsb' 5 2)) 0 0 ops = true →
    ∃ t : State, execAll ((BufOp.cfg f :: ops).map BufOp.onUnit) s = .next t ∧
      t.results = s.results ++ (pushedBytes ops).take (popCount ops) ∧ t.draws = s.draws

/-- R95 under the reference mechanism: four bytes pushed with BEND = 1 and popped with BEND = 0 come back reversed within
each unit of the width they were pushed with. -/
def Obligations.SwitchedEndiannessReversesUnits : Prop :=
  ∀ (s : State) (f a b c d : Byte), s.config.placement = .mirroredLane →
    s.cb.wp = 0 → s.cb.rp = 0 → f[3] = true →
    ∃ t : State,
      execAll [.wrctrl ((f &&& 0x6E) ||| 0x81), .wrcu a, .wrcu b, .wrcu c, .wrcu d,
        .wrctrl ((f &&& 0x66) ||| 0x91), .rdcu, .rdcu, .rdcu, .rdcu] s = .next t ∧
      t.results = s.results ++
        (match widthOf s.config.widths (f.extractLsb' 5 2) with
          | .w1 => [a, b, c, d]
          | .w2 => [b, a, d, c]
          | .w4 => [d, c, b, a])

/-- Draws are taken by RDCU alone, one at a time, and never with the reference mechanism (log entry 9). -/
def Obligations.OnlyUndeterminedPopsDraw : Prop :=
  ∀ (i : Instr) (s t : State), exec i s = .next t → t.draws ≠ s.draws →
    i = .rdcu ∧ s.ctl.dir = .read ∧ s.config.placement = .undetermined ∧ s.cb.rp < s.cb.wp ∧ t.draws = s.draws + 1

/-! ### Flags register, reserved indices, illegal words -/

/-- R103 with R38: RDFLAGS answers UFULL, UEMPTY, BFULL, BEMPTY at bits 3 to 0 and 0 above, and changes no state. -/
def Obligations.ReadFlagsAnswersFullAndEmpty : Prop :=
  ∀ s : State, ∃ v : Byte, exec .rdflags s = .next { s with results := s.results ++ [v] } ∧
    (v[0] = true ↔ ¬ s.bb.rp < s.bb.wp) ∧ (v[1] = true ↔ s.bb.wp = Cb) ∧
    (v[2] = true ↔ ¬ s.cb.rp < s.cb.wp) ∧ (v[3] = true ↔ s.cb.wp = Cc) ∧
    v.extractLsb' 4 4 = 0

/-- R104, R105, R106: a write of FLAGS changes nothing; a read of a reserved index answers 0x00 and a write of one is ignored,
whatever DIR is. -/
def Obligations.FlagsWritesAndReservedAccessesAreInert : Prop :=
  ∀ (idx : Index) (v : Byte) (s : State),
    exec (.wrflags v) s = .next s ∧
    exec (.rdrsv idx) s = .next { s with results := s.results ++ [0x00] } ∧ exec (.wrrsv idx v) s = .next s

/-- R107: an access word with KIND = 0b11 is refused, with any IDX and DATA and in every state. -/
def Obligations.IllegalWordIsRefused : Prop :=
  ∀ (idx : Index) (d : Byte) (s : State) (rest : List HostEvent),
    s.pending = .word (packWord 0b11 idx d) :: rest → step s = .refused .illegalAccessWord

/-! ### Direction/reset controller and the whole machine -/

/-- R99: the status transitions, for every operation. -/
def Obligations.StatusTransitions : Prop :=
  ∀ (i : Instr) (s t : State), exec i s = .next t →
    t.ist = (match i with
      | .reset => true
      | .wrctrl v => if v[7] then s.ist else true
      | .wrbyte _ | .wrcu _ => if s.ctl.dir = .write then false else s.ist
      | .rdctrl | .rdbyte | .rdcu | .rdflags | .wrflags _ | .rdrsv _ | .wrrsv _ _ | .illegal => s.ist) ∧
    t.ost = (match i with
      | .reset => true
      | .wrctrl v => if v[0] then s.ost else true
      | .rdbyte =>
        if s.ctl.dir = .read ∧ (s.bb.rp < s.bb.wp ∨ s.config.emptyPopClearsOst = true) then false else s.ost
      | .rdcu =>
        if s.ctl.dir = .read ∧ (s.cb.rp < s.cb.wp ∨ s.config.emptyPopClearsOst = true) then false else s.ost
      | .rdctrl | .wrbyte _ | .wrcu _ | .rdflags | .wrflags _ | .rdrsv _ | .wrrsv _ _ | .illegal => s.ost)

/-- R100: no state stops the block from accepting accesses: every operation completes in every state, the illegal word alone
is refused. -/
def Obligations.EveryOperationCompletes : Prop :=
  ∀ (i : Instr) (s : State), i ≠ .illegal → ∃ t : State, exec i s = .next t

/-- The control fields change only by a CTRL write or RESET; the byte buffer's cells and write pointer besides only by a byte
push, its read pointer only by a byte pop; likewise the code-unit buffer, so neither buffer changes by an access to the other (10_state R24 to
R36; independence of the buffers is the spec's decision D28, log entry 17). -/
def Obligations.OnlyItsOwnOperationsChangeAnElement : Prop :=
  ∀ (i : Instr) (s t : State), exec i s = .next t → i ≠ .reset → (∀ v : Byte, i ≠ .wrctrl v) →
    t.ctl = s.ctl ∧
    (t.bb ≠ s.bb → ((∃ v : Byte, i = .wrbyte v) ∧ s.ctl.dir = .write ∧ t.bb.rp = s.bb.rp) ∨
      (i = .rdbyte ∧ s.ctl.dir = .read ∧ t.bb.data = s.bb.data ∧ t.bb.wp = s.bb.wp)) ∧
    (t.cb ≠ s.cb → ((∃ v : Byte, i = .wrcu v) ∧ s.ctl.dir = .write ∧ t.cb.rp = s.cb.rp) ∨
      (i = .rdcu ∧ s.ctl.dir = .read ∧ t.cb.lane = s.cb.lane ∧ t.cb.wp = s.cb.wp ∧ t.cb.cfg = s.cb.cfg))

/-- The reads that R51 lists as free of side effects: read twice, they answer one value twice and leave the rest of the
state as it was. -/
def Obligations.RepeatableReadsChangeNothing : Prop :=
  ∀ (i : Instr) (s : State),
    (i = .rdctrl ∨ i = .rdflags ∨ (∃ idx : Index, i = .rdrsv idx) ∨
      ((i = .rdbyte ∨ i = .rdcu) ∧ s.ctl.dir = .write)) →
    ∃ v : Byte, exec i s = .next { s with results := s.results ++ [v] } ∧
      execAll [i, i] s = .next { s with results := s.results ++ [v, v] }

/-- R132: a read answers exactly one value, appended to those of the run; a write or a reset answers none. That the model keeps
the values in a list is log entry 20. -/
def Obligations.EveryReadAnswersOneValue : Prop :=
  ∀ (i : Instr) (s t : State), exec i s = .next t →
    (i.kind = 0b00#2 → ∃ v : Byte, t.results = s.results ++ [v]) ∧
    (i.kind ≠ 0b00#2 → t.results = s.results)

/-- A program that resets both sides in one write behaves the same under both values of IN_RESET_REWINDS_RP (R128): that
write gives the same block, and no operation but a CTRL write depends on the parameter. -/
def Obligations.FullResetHidesRewindParameter : Prop :=
  ∀ (i : Instr) (s : State) (b : Bool),
    ((∀ v : Byte, i ≠ .wrctrl v) ∨ ∃ v : Byte, i = .wrctrl v ∧ (v[7] = false → v[0] = false)) →
    exec i { s with config := { s.config with inResetRewindsRp := b } } =
      mapNext (fun t => { t with config := { t.config with inResetRewindsRp := b } }) (exec i s)

/-- A push that 93_implementation_defined lets a claim about the chip rest on is never lost: it advances the write pointer and,
for the byte buffer and for the code-unit buffer under the reference mechanism, stands in its cell or lane. Under the
undetermined placement no lane is claimed (log entry 24). -/
def Obligations.SupportedPushesAreStored : Prop :=
  ∀ (v : Byte) (s : State),
    (chipSupported (.wrbyte v) s = true → ∃ t : State, exec (.wrbyte v) s = .next t ∧
      t.bb.wp = s.bb.wp + 1 ∧ cellAt t.bb.data s.bb.wp = v) ∧
    (chipSupported (.wrcu v) s = true → ∃ t : State, exec (.wrcu v) s = .next t ∧
      t.cb.wp = s.cb.wp + 1 ∧
      (s.config.placement = .mirroredLane → cellAt t.cb.lane (laneOf s.cb.wp s.ctl.bend (unitWidth s)) = v))

/-- When the host's next event is a word, a step takes it off the sequence and executes the operation it decodes to
(R19, R132; that the host's words wait in a list is log entry 1). -/
def Obligations.StepRunsDecodedWord : Prop :=
  ∀ (s : State) (w : AccessWord) (rest : List HostEvent), s.pending = .word w :: rest →
    step s = exec (decode s.config.addrs w) { s with pending := rest }

/-- With no event of the host left, a step changes nothing: no element of S changes except in an operation (R41; that the
model idles rather than stops is log entry 2). -/
def Obligations.IdleStepChangesNothing : Prop := ∀ s : State, s.pending = [] → step s = .next s

/-- The accesses the spec puts outside the block's interface are refused, each by its own name (20_memory R47, R56, R59,
70_reset_and_hazards R121; the events are the model's, log entry 19). -/
def Obligations.AccessesOutsideTheInterfaceAreRefused : Prop :=
  ∀ (s : State) (rest : List HostEvent) (bits n : Nat) (idx : Index) (w : AccessWord),
    (bits ≠ 8 → s.pending = .otherWidth bits idx :: rest → step s = .refused .accessWidth) ∧
    (s.pending = .fetch idx :: rest → step s = .refused .instructionFetch) ∧
    (s.pending = .secondAgent w :: rest → step s = .refused .secondAgent) ∧
    (s.pending = .resetDuring w :: rest → step s = .refused .resetDuringAccess) ∧
    (s.pending = .overlong n :: rest → step s = .refused .notAnAccessWord)

/-- R40: every step keeps the invariants. -/
def Obligations.StepKeepsInvariants : Prop :=
  ∀ s t : State, s.Inv → step s = .next t → t.Inv

/-- Every step keeps the meaning of the tag NONE, nothing pushed since the last input reset, and every operation the meaning
of LE and BE(W): the buffer holds the bytes pushed since the last input reset (R37; that their lanes are the reference
mechanism's under every placement is log entry 24). -/
def Obligations.StepKeepsTagMeaning : Prop :=
  (∀ s t : State, s.TagInv → step s = .next t → t.TagInv) ∧
  ∀ (i : Instr) (bs : List Byte) (s t : State), HoldsPushed bs s → exec i s = .next t → HoldsPushed (pushedSince i s bs) t

/-- No step changes the parameters: they are "fixed for a run" (R44), though the model keeps them in a field (log entry 3). -/
def Obligations.StepKeepsParameters : Prop := ∀ s t : State, step s = .next t → t.config = s.config

/-- Every step takes exactly the first event off the host's sequence, if any, and answers at most one value. A sequence of words
issued with nothing else pending runs, one word a step, as the operations it decodes to, with no setup before the first (R123),
and completes if no word has KIND = 0b11. The sequence, the idle step on an empty one and the list of results are the model's
choice (log entries 1, 2 and 20); that each access is performed once, in order, is the host's discipline (R57, R55). -/
def Obligations.StepConsumesOneEvent : Prop :=
  (∀ s t : State, step s = .next t →
    t.pending = s.pending.tail ∧ (t.results = s.results ∨ ∃ v : Byte, t.results = s.results ++ [v])) ∧
  ∀ (ws : List AccessWord) (s : State), s.pending = [] →
    steps ws.length (issueAll ws s) = execAll (ws.map (decode s.config.addrs)) s ∧
    ((∀ w ∈ ws, kindOf w ≠ 0b11#2) → ∃ t : State, steps ws.length (issueAll ws s) = .next t ∧ t.pending = [])
end

