-- ==== Sys2Proof/Laws/Decode.lean ====
section
/-! SUPPORT. The three fields of a packed access word (30_encoding R62). -/

namespace Sys2Proof

@[simp] theorem kindOf_packWord (k : BitVec 2) (i : Index) (d : Byte) : kindOf (packWord k i d) = k := by
  ext j hj
  have : j = 0 ∨ j = 1 := by omega
  rcases this with rfl | rfl <;> simp [kindOf, packWord, BitVec.getLsbD_eq_getElem]

@[simp] theorem idxOf_packWord (k : BitVec 2) (i : Index) (d : Byte) : idxOf (packWord k i d) = i := by
  ext j hj
  have h1 : 8 + j < 18 := by omega
  simp [idxOf, packWord, BitVec.getLsbD_eq_getElem, hj, h1]
  intro h
  omega

@[simp] theorem dataOf_packWord (k : BitVec 2) (i : Index) (d : Byte) : dataOf (packWord k i d) = d := by
  ext j hj
  have h1 : j < 18 := by omega
  simp [dataOf, packWord, BitVec.getLsbD_eq_getElem, hj, h1]
  intro h
  omega

/-- A word is its three fields. -/
theorem packWord_fields (w : AccessWord) : packWord (kindOf w) (idxOf w) (dataOf w) = w := by
  ext j hj
  simp only [kindOf, idxOf, dataOf, packWord]
  by_cases h8 : j < 8
  · simp [h8, BitVec.getLsbD_eq_getElem, hj, (by omega : j < 16)]
  · by_cases h16 : j < 16
    · simp [h8, h16, (by omega : j - 8 < 8), (by omega : 8 + (j - 8) = j), BitVec.getLsbD_eq_getElem, hj]
    · simp [h8, h16, (by omega : j ≤ 17), (by omega : 16 + (j - 16) = j), BitVec.getLsbD_eq_getElem, hj]
      intro h
      omega

end Sys2Proof
end

