-- ==== Sys2Proof/Laws/State.lean ====
section
/-! SUPPORT. What each shared operation does to each field of State, one lemma per field, so that no later proof unfolds a
record update. -/

namespace Sys2Proof.Machine

/-! ### answer -/

@[simp] theorem answer_ctl (v : Byte) (s : State) : (answer v s).ctl = s.ctl := rfl
@[simp] theorem answer_ist (v : Byte) (s : State) : (answer v s).ist = s.ist := rfl
@[simp] theorem answer_ost (v : Byte) (s : State) : (answer v s).ost = s.ost := rfl
@[simp] theorem answer_bb (v : Byte) (s : State) : (answer v s).bb = s.bb := rfl
@[simp] theorem answer_cb (v : Byte) (s : State) : (answer v s).cb = s.cb := rfl
@[simp] theorem answer_config (v : Byte) (s : State) : (answer v s).config = s.config := rfl
@[simp] theorem answer_pending (v : Byte) (s : State) : (answer v s).pending = s.pending := rfl
@[simp] theorem answer_results (v : Byte) (s : State) : (answer v s).results = s.results ++ [v] := rfl
@[simp] theorem answer_draws (v : Byte) (s : State) : (answer v s).draws = s.draws := rfl

/-! ### pushB -/

@[simp] theorem pushB_ctl (v : Byte) (s : State) : (pushB v s).ctl = s.ctl := rfl
@[simp] theorem pushB_ist (v : Byte) (s : State) : (pushB v s).ist = false := rfl
@[simp] theorem pushB_ost (v : Byte) (s : State) : (pushB v s).ost = s.ost := rfl
@[simp] theorem pushB_bb (v : Byte) (s : State) : (pushB v s).bb = s.bb.push v := rfl
@[simp] theorem pushB_cb (v : Byte) (s : State) : (pushB v s).cb = s.cb := rfl
@[simp] theorem pushB_config (v : Byte) (s : State) : (pushB v s).config = s.config := rfl
@[simp] theorem pushB_pending (v : Byte) (s : State) : (pushB v s).pending = s.pending := rfl
@[simp] theorem pushB_results (v : Byte) (s : State) : (pushB v s).results = s.results := rfl
@[simp] theorem pushB_draws (v : Byte) (s : State) : (pushB v s).draws = s.draws := rfl

/-! ### popB -/

@[simp] theorem popB_ctl (s : State) : (popB s).ctl = s.ctl := rfl
@[simp] theorem popB_ist (s : State) : (popB s).ist = s.ist := rfl
@[simp] theorem popB_ost (s : State) : (popB s).ost = ostAfterPop s (!bempty s) := rfl
@[simp] theorem popB_bb (s : State) : (popB s).bb = s.bb.pop := rfl
@[simp] theorem popB_cb (s : State) : (popB s).cb = s.cb := rfl
@[simp] theorem popB_config (s : State) : (popB s).config = s.config := rfl
@[simp] theorem popB_pending (s : State) : (popB s).pending = s.pending := rfl
@[simp] theorem popB_results (s : State) : (popB s).results = s.results := rfl
@[simp] theorem popB_draws (s : State) : (popB s).draws = s.draws := rfl

/-! ### pushU -/

@[simp] theorem pushU_ctl (v : Byte) (s : State) : (pushU v s).ctl = s.ctl := rfl
@[simp] theorem pushU_ist (v : Byte) (s : State) : (pushU v s).ist = false := rfl
@[simp] theorem pushU_ost (v : Byte) (s : State) : (pushU v s).ost = s.ost := rfl
@[simp] theorem pushU_bb (v : Byte) (s : State) : (pushU v s).bb = s.bb := rfl
@[simp] theorem pushU_cb (v : Byte) (s : State) : (pushU v s).cb = s.cb.push v (currentLane s s.cb.wp) (placementKey s) := rfl
@[simp] theorem pushU_config (v : Byte) (s : State) : (pushU v s).config = s.config := rfl
@[simp] theorem pushU_pending (v : Byte) (s : State) : (pushU v s).pending = s.pending := rfl
@[simp] theorem pushU_results (v : Byte) (s : State) : (pushU v s).results = s.results := rfl
@[simp] theorem pushU_draws (v : Byte) (s : State) : (pushU v s).draws = s.draws := rfl

/-! ### popU -/

@[simp] theorem popU_ctl (s : State) : (popU s).ctl = s.ctl := rfl
@[simp] theorem popU_ist (s : State) : (popU s).ist = s.ist := rfl
@[simp] theorem popU_ost (s : State) : (popU s).ost = ostAfterPop s (!uempty s) := rfl
@[simp] theorem popU_bb (s : State) : (popU s).bb = s.bb := rfl
@[simp] theorem popU_cb (s : State) : (popU s).cb = s.cb.pop := rfl
@[simp] theorem popU_config (s : State) : (popU s).config = s.config := rfl
@[simp] theorem popU_pending (s : State) : (popU s).pending = s.pending := rfl
@[simp] theorem popU_results (s : State) : (popU s).results = s.results := rfl
@[simp] theorem popU_draws (s : State) : (popU s).draws = if popDraws s then s.draws + 1 else s.draws := rfl

/-! ### inputReset -/

@[simp] theorem inputReset_ctl (s : State) : (inputReset s).ctl = s.ctl := rfl
@[simp] theorem inputReset_ist (s : State) : (inputReset s).ist = true := rfl
@[simp] theorem inputReset_ost (s : State) : (inputReset s).ost = s.ost := rfl
@[simp] theorem inputReset_bb (s : State) : (inputReset s).bb = s.bb.inputReset s.config.inResetRewindsRp := rfl
@[simp] theorem inputReset_cb (s : State) : (inputReset s).cb = s.cb.inputReset s.config.inResetRewindsRp := rfl
@[simp] theorem inputReset_config (s : State) : (inputReset s).config = s.config := rfl
@[simp] theorem inputReset_pending (s : State) : (inputReset s).pending = s.pending := rfl
@[simp] theorem inputReset_results (s : State) : (inputReset s).results = s.results := rfl
@[simp] theorem inputReset_draws (s : State) : (inputReset s).draws = s.draws := rfl

/-! ### outputReset -/

@[simp] theorem outputReset_ctl (s : State) : (outputReset s).ctl = s.ctl := rfl
@[simp] theorem outputReset_ist (s : State) : (outputReset s).ist = s.ist := rfl
@[simp] theorem outputReset_ost (s : State) : (outputReset s).ost = true := rfl
@[simp] theorem outputReset_bb (s : State) : (outputReset s).bb = { s.bb with rp := 0 } := rfl
@[simp] theorem outputReset_cb (s : State) : (outputReset s).cb = { s.cb with rp := 0 } := rfl
@[simp] theorem outputReset_config (s : State) : (outputReset s).config = s.config := rfl
@[simp] theorem outputReset_pending (s : State) : (outputReset s).pending = s.pending := rfl
@[simp] theorem outputReset_results (s : State) : (outputReset s).results = s.results := rfl
@[simp] theorem outputReset_draws (s : State) : (outputReset s).draws = s.draws := rfl

/-! ### storeFields -/

@[simp] theorem storeFields_ctl (v : Byte) (s : State) : (storeFields v s).ctl = ctlOfByte v := rfl
@[simp] theorem storeFields_ist (v : Byte) (s : State) : (storeFields v s).ist = s.ist := rfl
@[simp] theorem storeFields_ost (v : Byte) (s : State) : (storeFields v s).ost = s.ost := rfl
@[simp] theorem storeFields_bb (v : Byte) (s : State) : (storeFields v s).bb = s.bb := rfl
@[simp] theorem storeFields_cb (v : Byte) (s : State) : (storeFields v s).cb = s.cb := rfl
@[simp] theorem storeFields_config (v : Byte) (s : State) : (storeFields v s).config = s.config := rfl
@[simp] theorem storeFields_pending (v : Byte) (s : State) : (storeFields v s).pending = s.pending := rfl
@[simp] theorem storeFields_results (v : Byte) (s : State) : (storeFields v s).results = s.results := rfl
@[simp] theorem storeFields_draws (v : Byte) (s : State) : (storeFields v s).draws = s.draws := rfl

/-! ### blockReset -/

@[simp] theorem blockReset_ctl (s : State) : (blockReset s).ctl = s.config.ctrlReset := rfl
@[simp] theorem blockReset_ist (s : State) : (blockReset s).ist = true := rfl
@[simp] theorem blockReset_ost (s : State) : (blockReset s).ost = true := rfl
@[simp] theorem blockReset_bb (s : State) : (blockReset s).bb = .empty := rfl
@[simp] theorem blockReset_cb (s : State) : (blockReset s).cb = .empty := rfl
@[simp] theorem blockReset_config (s : State) : (blockReset s).config = s.config := rfl
@[simp] theorem blockReset_pending (s : State) : (blockReset s).pending = s.pending := rfl
@[simp] theorem blockReset_results (s : State) : (blockReset s).results = s.results := rfl
@[simp] theorem blockReset_draws (s : State) : (blockReset s).draws = s.draws := rfl

/-! ### dropEvent -/

@[simp] theorem dropEvent_ctl (rest : List HostEvent) (s : State) : (dropEvent rest s).ctl = s.ctl := rfl
@[simp] theorem dropEvent_ist (rest : List HostEvent) (s : State) : (dropEvent rest s).ist = s.ist := rfl
@[simp] theorem dropEvent_ost (rest : List HostEvent) (s : State) : (dropEvent rest s).ost = s.ost := rfl
@[simp] theorem dropEvent_bb (rest : List HostEvent) (s : State) : (dropEvent rest s).bb = s.bb := rfl
@[simp] theorem dropEvent_cb (rest : List HostEvent) (s : State) : (dropEvent rest s).cb = s.cb := rfl
@[simp] theorem dropEvent_config (rest : List HostEvent) (s : State) : (dropEvent rest s).config = s.config := rfl
@[simp] theorem dropEvent_pending (rest : List HostEvent) (s : State) : (dropEvent rest s).pending = rest := rfl
@[simp] theorem dropEvent_results (rest : List HostEvent) (s : State) : (dropEvent rest s).results = s.results := rfl
@[simp] theorem dropEvent_draws (rest : List HostEvent) (s : State) : (dropEvent rest s).draws = s.draws := rfl

/-! ### issueNext -/

@[simp] theorem issueNext_ctl (e : HostEvent) (s : State) : (issueNext e s).ctl = s.ctl := rfl
@[simp] theorem issueNext_ist (e : HostEvent) (s : State) : (issueNext e s).ist = s.ist := rfl
@[simp] theorem issueNext_ost (e : HostEvent) (s : State) : (issueNext e s).ost = s.ost := rfl
@[simp] theorem issueNext_bb (e : HostEvent) (s : State) : (issueNext e s).bb = s.bb := rfl
@[simp] theorem issueNext_cb (e : HostEvent) (s : State) : (issueNext e s).cb = s.cb := rfl
@[simp] theorem issueNext_config (e : HostEvent) (s : State) : (issueNext e s).config = s.config := rfl
@[simp] theorem issueNext_pending (e : HostEvent) (s : State) : (issueNext e s).pending = e :: s.pending := rfl
@[simp] theorem issueNext_results (e : HostEvent) (s : State) : (issueNext e s).results = s.results := rfl
@[simp] theorem issueNext_draws (e : HostEvent) (s : State) : (issueNext e s).draws = s.draws := rfl

/-! ### issueAll -/

@[simp] theorem issueAll_ctl (ws : List AccessWord) (s : State) : (issueAll ws s).ctl = s.ctl := rfl
@[simp] theorem issueAll_ist (ws : List AccessWord) (s : State) : (issueAll ws s).ist = s.ist := rfl
@[simp] theorem issueAll_ost (ws : List AccessWord) (s : State) : (issueAll ws s).ost = s.ost := rfl
@[simp] theorem issueAll_bb (ws : List AccessWord) (s : State) : (issueAll ws s).bb = s.bb := rfl
@[simp] theorem issueAll_cb (ws : List AccessWord) (s : State) : (issueAll ws s).cb = s.cb := rfl
@[simp] theorem issueAll_config (ws : List AccessWord) (s : State) : (issueAll ws s).config = s.config := rfl
@[simp] theorem issueAll_pending (ws : List AccessWord) (s : State) : (issueAll ws s).pending = s.pending ++ ws.map .word := rfl
@[simp] theorem issueAll_results (ws : List AccessWord) (s : State) : (issueAll ws s).results = s.results := rfl
@[simp] theorem issueAll_draws (ws : List AccessWord) (s : State) : (issueAll ws s).draws = s.draws := rfl

/-! ### controlWrite: two pulses, so one case split for each field -/

@[simp] theorem controlWrite_ctl (v : Byte) (s : State) : (controlWrite v s).ctl = ctlOfByte v := by
  unfold controlWrite; cases pulsesInputReset v <;> cases pulsesOutputReset v <;> rfl
@[simp] theorem controlWrite_ist (v : Byte) (s : State) :
    (controlWrite v s).ist = (pulsesInputReset v || s.ist) := by
  unfold controlWrite; cases pulsesInputReset v <;> cases pulsesOutputReset v <;> rfl
@[simp] theorem controlWrite_ost (v : Byte) (s : State) :
    (controlWrite v s).ost = (pulsesOutputReset v || s.ost) := by
  unfold controlWrite; cases pulsesInputReset v <;> cases pulsesOutputReset v <;> rfl
@[simp] theorem controlWrite_config (v : Byte) (s : State) : (controlWrite v s).config = s.config := by
  unfold controlWrite; cases pulsesInputReset v <;> cases pulsesOutputReset v <;> rfl
@[simp] theorem controlWrite_pending (v : Byte) (s : State) : (controlWrite v s).pending = s.pending := by
  unfold controlWrite; cases pulsesInputReset v <;> cases pulsesOutputReset v <;> rfl
@[simp] theorem controlWrite_results (v : Byte) (s : State) : (controlWrite v s).results = s.results := by
  unfold controlWrite; cases pulsesInputReset v <;> cases pulsesOutputReset v <;> rfl
@[simp] theorem controlWrite_draws (v : Byte) (s : State) : (controlWrite v s).draws = s.draws := by
  unfold controlWrite; cases pulsesInputReset v <;> cases pulsesOutputReset v <;> rfl

end Sys2Proof.Machine
end

