-- ==== Sys2Proof/Laws/Ops.lean ====
section
/-! SUPPORT. What each shared operation can do, said once: buffers, cells, lanes, the control byte and the status bits. -/

namespace Sys2Proof.Machine

/-! ### Cells -/

theorem cellAt_of_lt {n : Nat} (v : Vector Byte n) {i : Nat} (h : i < n) : cellAt v i = v[i] := by
  simp [cellAt, h]

theorem cellAt_set_same {n : Nat} (v : Vector Byte n) {i : Nat} (h : i < n) (x : Byte) :
    cellAt (v.setIfInBounds i x) i = x := by
  simp [cellAt, h]

theorem cellAt_set_other {n : Nat} (v : Vector Byte n) {i j : Nat} (h : i ≠ j) (x : Byte) :
    cellAt (v.setIfInBounds i x) j = cellAt v j := by
  simp [cellAt, Vector.getElem?_setIfInBounds_ne h]

theorem setIfInBounds_of_lt {n : Nat} (v : Vector Byte n) {i : Nat} (h : i < n) (x : Byte) :
    v.setIfInBounds i x = v.set i x h := by
  ext j hj
  simp [Vector.getElem_setIfInBounds, Vector.getElem_set]

/-! ### The buffers -/

theorem ByteBuffer.push_of_room {b : ByteBuffer} (h : b.wp < Cb) (v : Byte) :
    b.push v = { b with data := b.data.setIfInBounds b.wp v, wp := b.wp + 1 } := by
  simp [ByteBuffer.push, h]

theorem ByteBuffer.push_of_full {b : ByteBuffer} (h : ¬ b.wp < Cb) (v : Byte) : b.push v = b := by
  simp only [ByteBuffer.push, if_neg h]

@[simp] theorem ByteBuffer.push_rp (b : ByteBuffer) (v : Byte) : (b.push v).rp = b.rp := by
  unfold ByteBuffer.push; split <;> rfl

theorem ByteBuffer.pop_of_stored {b : ByteBuffer} (h : b.rp < b.wp) : b.pop = { b with rp := b.rp + 1 } := by
  simp [ByteBuffer.pop, h]

theorem ByteBuffer.pop_of_empty {b : ByteBuffer} (h : ¬ b.rp < b.wp) : b.pop = b := by
  simp only [ByteBuffer.pop, if_neg h]

@[simp] theorem ByteBuffer.pop_wp (b : ByteBuffer) : b.pop.wp = b.wp := by unfold ByteBuffer.pop; split <;> rfl

@[simp] theorem ByteBuffer.pop_data (b : ByteBuffer) : b.pop.data = b.data := by unfold ByteBuffer.pop; split <;> rfl

theorem ByteBuffer.front_of_stored {b : ByteBuffer} (h : b.rp < b.wp) : b.front = cellAt b.data b.rp := by
  simp [ByteBuffer.front, h]

theorem ByteBuffer.front_of_empty {b : ByteBuffer} (h : ¬ b.rp < b.wp) : b.front = 0x00 := by
  simp only [ByteBuffer.front, if_neg h]

theorem CodeUnitBuffer.push_of_room {b : CodeUnitBuffer} (h : b.wp < Cc) (v : Byte) (j : Nat) (k : CuTag) :
    b.push v j k = { b with lane := b.lane.setIfInBounds j v, wp := b.wp + 1, cfg := tagAfterPush b.cfg k } := by
  simp [CodeUnitBuffer.push, h]

theorem CodeUnitBuffer.push_of_full {b : CodeUnitBuffer} (h : ¬ b.wp < Cc) (v : Byte) (j : Nat) (k : CuTag) :
    b.push v j k = b := by
  simp only [CodeUnitBuffer.push, if_neg h]

@[simp] theorem CodeUnitBuffer.push_rp (b : CodeUnitBuffer) (v : Byte) (j : Nat) (k : CuTag) :
    (b.push v j k).rp = b.rp := by
  unfold CodeUnitBuffer.push; split <;> rfl

theorem CodeUnitBuffer.pop_of_stored {b : CodeUnitBuffer} (h : b.rp < b.wp) : b.pop = { b with rp := b.rp + 1 } := by
  simp [CodeUnitBuffer.pop, h]

theorem CodeUnitBuffer.pop_of_empty {b : CodeUnitBuffer} (h : ¬ b.rp < b.wp) : b.pop = b := by
  simp only [CodeUnitBuffer.pop, if_neg h]

@[simp] theorem CodeUnitBuffer.pop_wp (b : CodeUnitBuffer) : b.pop.wp = b.wp := by
  unfold CodeUnitBuffer.pop; split <;> rfl

@[simp] theorem CodeUnitBuffer.pop_lane (b : CodeUnitBuffer) : b.pop.lane = b.lane := by
  unfold CodeUnitBuffer.pop; split <;> rfl

@[simp] theorem CodeUnitBuffer.pop_cfg (b : CodeUnitBuffer) : b.pop.cfg = b.cfg := by
  unfold CodeUnitBuffer.pop; split <;> rfl

/-- No push leaves the tag at NONE (10_state R37). -/
theorem tagAfterPush_ne_none {k : CuTag} (h : k ≠ .none) (c : CuTag) : tagAfterPush c k ≠ .none := by
  unfold tagAfterPush; split
  · exact h
  · split
    · exact h
    · simp

theorem placementKey_ne_none (s : State) : placementKey s ≠ .none := by
  unfold placementKey; split <;> simp

/-! ### Emptiness and status -/

theorem bempty_eq_false_iff (s : State) : bempty s = false ↔ s.bb.rp < s.bb.wp := by simp [bempty]

theorem bempty_eq_true_iff (s : State) : bempty s = true ↔ ¬ s.bb.rp < s.bb.wp := by simp [bempty]

theorem uempty_eq_false_iff (s : State) : uempty s = false ↔ s.cb.rp < s.cb.wp := by simp [uempty]

theorem uempty_eq_true_iff (s : State) : uempty s = true ↔ ¬ s.cb.rp < s.cb.wp := by simp [uempty]

theorem bfull_eq_true_iff (s : State) : bfull s = true ↔ s.bb.wp = Cb := by simp [bfull]

theorem bfull_eq_false_iff (s : State) : bfull s = false ↔ s.bb.wp ≠ Cb := by simp [bfull]

theorem ufull_eq_true_iff (s : State) : ufull s = true ↔ s.cb.wp = Cc := by simp [ufull]

theorem ufull_eq_false_iff (s : State) : ufull s = false ↔ s.cb.wp ≠ Cc := by simp [ufull]

theorem ostAfterPop_stored (s : State) : ostAfterPop s true = false := rfl

theorem ostAfterPop_empty (s : State) :
    ostAfterPop s false = if s.config.emptyPopClearsOst then false else s.ost := by simp [ostAfterPop]

/-! ### Code-unit pops -/

theorem popDraws_of_mirrored {s : State} (h : s.config.placement = .mirroredLane) : popDraws s = false := by
  simp [popDraws, h]

theorem popDraws_of_empty {s : State} (h : ¬ s.cb.rp < s.cb.wp) : popDraws s = false := by
  simp [popDraws, (uempty_eq_true_iff s).2 h]

theorem popDraws_of_contract {s : State} (h : contractPop s = true) : popDraws s = false := by simp [popDraws, h]

theorem frontU_of_empty {s : State} (h : ¬ s.cb.rp < s.cb.wp) : frontU s = 0x00 := by
  simp [frontU, (uempty_eq_true_iff s).2 h]

theorem frontU_of_stored {s : State} (h : s.cb.rp < s.cb.wp) (hd : popDraws s = false) :
    frontU s = cellAt s.cb.lane (currentLane s s.cb.rp) := by
  simp [frontU, (uempty_eq_false_iff s).2 h, hd]

/-- A stored-byte pop that takes no draw moves the read pointer and clears OST, and nothing else. -/
theorem popU_of_stored {s : State} (hs : s.cb.rp < s.cb.wp) (hd : popDraws s = false) :
    popU s = { s with cb := { s.cb with rp := s.cb.rp + 1 }, ost := false } := by
  unfold popU
  rw [CodeUnitBuffer.pop_of_stored hs, (uempty_eq_false_iff s).2 hs, hd]
  rfl

/-- A contract pop is one of the two cases of 42_code_unit_buffer R92. -/
theorem contractPop_iff (s : State) :
    contractPop s = true ↔
      (s.cb.cfg = .le ∧ s.ctl.bend = false) ∨
      (s.cb.cfg = .be (unitWidth s) ∧ s.ctl.bend = true ∧
        (s.cb.rp / (unitWidth s).bytes + 1) * (unitWidth s).bytes ≤ s.cb.wp) := by
  unfold contractPop placementKey
  cases hb : s.ctl.bend <;> cases hc : s.cb.cfg <;> simp [unitComplete]
  rename_i w
  constructor
  · rintro ⟨rfl, h⟩
    exact ⟨rfl, h⟩
  · rintro ⟨rfl, h⟩
    exact ⟨rfl, h⟩

/-! ### Lanes -/

theorem bytes_pos (w : UnitWidth) : 0 < w.bytes := by cases w <;> decide

theorem laneOf_lt {i : Nat} (h : i < Cc) (be : Bool) (w : UnitWidth) : laneOf i be w < Cc := by
  have key : ∀ j : Fin Cc, ∀ (b : Bool), laneOf j.val b w < Cc := by cases w <;> decide
  exact key ⟨i, h⟩ be

theorem laneOf_injective {i j : Nat} (hi : i < Cc) (hj : j < Cc) {be : Bool} {w : UnitWidth}
    (h : laneOf i be w = laneOf j be w) : i = j := by
  have key : ∀ (a b : Fin Cc) (c : Bool), laneOf a.val c w = laneOf b.val c w → a.val = b.val := by
    cases w <;> decide
  exact key ⟨i, hi⟩ ⟨j, hj⟩ be h

/-! ### The placement configuration is the control fields' alone -/

@[simp] theorem unitWidth_answer (v : Byte) (s : State) : unitWidth (answer v s) = unitWidth s := rfl
@[simp] theorem placementKey_answer (v : Byte) (s : State) : placementKey (answer v s) = placementKey s := rfl
@[simp] theorem currentLane_answer (v : Byte) (s : State) (i : Nat) :
    currentLane (answer v s) i = currentLane s i := rfl
@[simp] theorem unitWidth_pushB (v : Byte) (s : State) : unitWidth (pushB v s) = unitWidth s := rfl
@[simp] theorem placementKey_pushB (v : Byte) (s : State) : placementKey (pushB v s) = placementKey s := rfl
@[simp] theorem currentLane_pushB (v : Byte) (s : State) (i : Nat) :
    currentLane (pushB v s) i = currentLane s i := rfl
@[simp] theorem unitWidth_popB (s : State) : unitWidth (popB s) = unitWidth s := rfl
@[simp] theorem placementKey_popB (s : State) : placementKey (popB s) = placementKey s := rfl
@[simp] theorem currentLane_popB (s : State) (i : Nat) :
    currentLane (popB s) i = currentLane s i := rfl
@[simp] theorem unitWidth_pushU (v : Byte) (s : State) : unitWidth (pushU v s) = unitWidth s := rfl
@[simp] theorem placementKey_pushU (v : Byte) (s : State) : placementKey (pushU v s) = placementKey s := rfl
@[simp] theorem currentLane_pushU (v : Byte) (s : State) (i : Nat) :
    currentLane (pushU v s) i = currentLane s i := rfl
@[simp] theorem unitWidth_popU (s : State) : unitWidth (popU s) = unitWidth s := rfl
@[simp] theorem placementKey_popU (s : State) : placementKey (popU s) = placementKey s := rfl
@[simp] theorem currentLane_popU (s : State) (i : Nat) :
    currentLane (popU s) i = currentLane s i := rfl

theorem currentLane_lt (s : State) {i : Nat} (h : i < Cc) : currentLane s i < Cc := laneOf_lt h _ _

/-! ### The control byte -/

theorem ctrlByte_bit7 (s : State) : (ctrlByte s)[7] = s.ist := by
  simp [ctrlByte, fieldsByte, bitAt]

theorem ctrlByte_bit0 (s : State) : (ctrlByte s)[0] = s.ost := by
  simp [ctrlByte, fieldsByte, bitAt]

theorem dirOfBit_bitOfDir (d : Direction) : dirOfBit (bitOfDir d) = d := by cases d <;> rfl

/-- What CTRL reads as, split into fields again, is the stored fields (40_control_register R72, R73). -/
theorem ctlOfByte_ctrlByte (s : State) : ctlOfByte (ctrlByte s) = s.ctl := by
  have hw : (ctrlByte s).extractLsb' 5 2 = s.ctl.wsel := by
    ext i hi
    have : i = 0 ∨ i = 1 := by omega
    rcases this with rfl | rfl <;> simp [ctrlByte, fieldsByte, bitAt, BitVec.getLsbD_eq_getElem]
  have hd : (ctrlByte s)[4] = bitOfDir s.ctl.dir := by
    simp [ctrlByte, fieldsByte, bitAt]
  have h1 : (ctrlByte s)[1] = s.ctl.eren := by simp [ctrlByte, fieldsByte, bitAt]
  have h2 : (ctrlByte s)[2] = s.ctl.rcen := by simp [ctrlByte, fieldsByte, bitAt]
  have h3 : (ctrlByte s)[3] = s.ctl.bend := by simp [ctrlByte, fieldsByte, bitAt]
  unfold ctlOfByte
  rw [h1, h2, h3, hd, hw, dirOfBit_bitOfDir]

/-- Forcing bits 7 and 0 to 1 and keeping bits 6:1 keeps the fields a value carries (30_encoding R71 `cfg`). -/
theorem ctlOfByte_noPulse (f : Byte) : ctlOfByte ((f &&& 0x7E) ||| 0x81) = ctlOfByte f := by
  have key : ∀ f : Byte, ctlOfByte ((f &&& 0x7E) ||| 0x81) = ctlOfByte f := by decide
  exact key f

/-! ### A CTRL write without a pulse -/

theorem controlWrite_noPulse {v : Byte} (h7 : pulsesInputReset v = false) (h0 : pulsesOutputReset v = false)
    (s : State) : controlWrite v s = storeFields v s := by
  simp [controlWrite, h7, h0]

theorem controlWrite_bb (v : Byte) (s : State) :
    (controlWrite v s).bb =
      { data := if pulsesInputReset v then Vector.replicate Cb 0x00 else s.bb.data
        wp := if pulsesInputReset v then 0 else s.bb.wp
        rp := if pulsesOutputReset v || (pulsesInputReset v && s.config.inResetRewindsRp) then 0 else s.bb.rp } := by
  unfold controlWrite
  cases pulsesInputReset v <;> cases pulsesOutputReset v <;> cases hr : s.config.inResetRewindsRp <;>
    simp [ByteBuffer.inputReset, hr]

theorem controlWrite_cb (v : Byte) (s : State) :
    (controlWrite v s).cb =
      { lane := if pulsesInputReset v then Vector.replicate Cc 0x00 else s.cb.lane
        wp := if pulsesInputReset v then 0 else s.cb.wp
        rp := if pulsesOutputReset v || (pulsesInputReset v && s.config.inResetRewindsRp) then 0 else s.cb.rp
        cfg := if pulsesInputReset v then .none else s.cb.cfg } := by
  unfold controlWrite
  cases pulsesInputReset v <;> cases pulsesOutputReset v <;> cases hr : s.config.inResetRewindsRp <;>
    simp [CodeUnitBuffer.inputReset, hr]

end Sys2Proof.Machine
end

