-- ==== Sys2Proof/Laws/Exec.lean ====
section
/-! SUPPORT. Each operation's outcome by the case of DIR it runs in, and what a step can do. -/

namespace Sys2Proof.Machine

@[simp] theorem exec_reset (s : State) : exec .reset s = .next (blockReset s) := rfl
@[simp] theorem exec_rdctrl (s : State) : exec .rdctrl s = .next (answer (ctrlByte s) s) := rfl
@[simp] theorem exec_wrctrl (v : Byte) (s : State) : exec (.wrctrl v) s = .next (controlWrite v s) := rfl
@[simp] theorem exec_rdflags (s : State) : exec .rdflags s = .next (answer (flagsByte s) s) := rfl
@[simp] theorem exec_illegal (s : State) : exec .illegal s = .refused .illegalAccessWord := rfl

theorem exec_wrbyte_write {s : State} (h : s.ctl.dir = .write) (v : Byte) :
    exec (.wrbyte v) s = .next (pushB v s) := by simp [exec, execWrbyte, h]

theorem exec_rdbyte_read {s : State} (h : s.ctl.dir = .read) :
    exec .rdbyte s = .next (answer s.bb.front (popB s)) := by simp [exec, execRdbyte, h]

theorem exec_wrcu_write {s : State} (h : s.ctl.dir = .write) (v : Byte) :
    exec (.wrcu v) s = .next (pushU v s) := by simp [exec, execWrcu, h]

theorem exec_rdcu_read {s : State} (h : s.ctl.dir = .read) :
    exec .rdcu s = .next (answer (frontU s) (popU s)) := by simp [exec, execRdcu, h]

/-- What an operation that completes can have done: an ignored write, a read that moves nothing, or one of six effects. -/
theorem exec_next_cases {i : Instr} {s t : State} (h : exec i s = .next t) :
    (i.kind = 0b01#2 ∧ (∀ v : Byte, i ≠ .wrctrl v) ∧ t = s) ∨
    (i.kind = 0b00#2 ∧ ∃ v : Byte, t = answer v s) ∨
    (i = .reset ∧ t = blockReset s) ∨
    (∃ v : Byte, i = .wrctrl v ∧ t = controlWrite v s) ∨
    (∃ v : Byte, i = .wrbyte v ∧ s.ctl.dir = .write ∧ t = pushB v s) ∨
    (i = .rdbyte ∧ s.ctl.dir = .read ∧ t = answer s.bb.front (popB s)) ∨
    (∃ v : Byte, i = .wrcu v ∧ s.ctl.dir = .write ∧ t = pushU v s) ∨
    (i = .rdcu ∧ s.ctl.dir = .read ∧ t = answer (frontU s) (popU s)) := by
  cases i <;> cases hd : s.ctl.dir <;>
    simp [exec, execWrbyte, execRdbyte, execWrcu, execRdcu, execReset, execRdctrl, execWrctrl, execRdflags,
      execWrflags, execRdrsv, execWrrsv, execIllegal, hd] at h <;> subst h <;>
    first
    | exact .inl ⟨rfl, fun _ => Instr.noConfusion, rfl⟩
    | exact .inr (.inl ⟨rfl, _, rfl⟩)
    | simp

/-- No operation reads or writes the host's sequence. -/
theorem exec_withPending (i : Instr) (s : State) (p : List HostEvent) :
    exec i { s with pending := p } = mapNext (fun t => { t with pending := p }) (exec i s) := by
  cases i with
  | wrctrl v =>
    simp only [exec_wrctrl, mapNext, controlWrite]
    cases pulsesInputReset v <;> cases pulsesOutputReset v <;> rfl
  | rdbyte | wrbyte v | rdcu | wrcu v =>
    cases hd : s.ctl.dir <;> simp only [exec, execWrbyte, execRdbyte, execWrcu, execRdcu, hd, mapNext] <;> rfl
  | _ => rfl

theorem step_of_pending_nil {s : State} (h : s.pending = []) : step s = .next s := by unfold step; rw [h]

theorem step_of_pending_cons {s : State} {e : HostEvent} {rest : List HostEvent} (h : s.pending = e :: rest) :
    step s = perform e (dropEvent rest s) := by unfold step; rw [h]

/-- A step that answers a next state either idles or executes a decoded word. -/
theorem step_next_cases {s t : State} (h : step s = .next t) :
    (s.pending = [] ∧ t = s) ∨
    ∃ (w : AccessWord) (rest : List HostEvent), s.pending = .word w :: rest ∧
      exec (decode s.config.addrs w) (dropEvent rest s) = .next t := by
  cases hp : s.pending with
  | nil =>
    rw [step_of_pending_nil hp] at h
    exact .inl ⟨rfl, by injection h with h; exact h.symm⟩
  | cons e rest =>
    rw [step_of_pending_cons hp] at h
    cases e with
    | word w => exact .inr ⟨w, rest, rfl, h⟩
    | _ => simp [perform] at h

theorem execAll_cons {i : Instr} {s t : State} (h : exec i s = .next t) (rest : List Instr) :
    execAll (i :: rest) s = execAll rest t := by simp [execAll, h]

/-- A run of two parts is the first part, then the second. -/
theorem execAll_append (a b : List Instr) {s t : State} (h : execAll a s = .next t) :
    execAll (a ++ b) s = execAll b t := by
  induction a generalizing s with
  | nil =>
    simp only [execAll] at h
    injection h with h
    subst h
    rfl
  | cons i rest ih =>
    simp only [execAll, List.cons_append] at h ⊢
    cases hi : exec i s with
    | next u => rw [hi] at h; simp only at h ⊢; exact ih h
    | fault r => rw [hi] at h; simp at h
    | refused r => rw [hi] at h; simp at h

end Sys2Proof.Machine
end

