-- ==== Sys2Proof/Laws/PerInstr.lean ====
section
/-! SUPPORT. What encoding gives each operation, one lemma per constructor: the fields of its word are those of its row of the
opcode map (30_encoding R67), under every index map. -/

namespace Sys2Proof.Laws.EncodedFields

/-- The word of an operation carries its KIND, IDX and DATA. -/
def Statement (i : Instr) : Prop :=
  ∀ m : AddrMap, kindOf (encode m i) = i.kind ∧ idxOf (encode m i) = i.idx m ∧ dataOf (encode m i) = i.data

theorem reset : Statement .reset := fun m => by simp [encode]
theorem rdctrl : Statement .rdctrl := fun m => by simp [encode]
theorem wrctrl (v : Byte) : Statement (.wrctrl v) := fun m => by simp [encode]
theorem rdbyte : Statement .rdbyte := fun m => by simp [encode]
theorem wrbyte (v : Byte) : Statement (.wrbyte v) := fun m => by simp [encode]
theorem rdcu : Statement .rdcu := fun m => by simp [encode]
theorem wrcu (v : Byte) : Statement (.wrcu v) := fun m => by simp [encode]
theorem rdflags : Statement .rdflags := fun m => by simp [encode]
theorem wrflags (v : Byte) : Statement (.wrflags v) := fun m => by simp [encode]
theorem rdrsv (idx : Index) : Statement (.rdrsv idx) := fun m => by simp [encode]
theorem wrrsv (idx : Index) (v : Byte) : Statement (.wrrsv idx v) := fun m => by simp [encode]
theorem illegal : Statement .illegal := fun m => by simp [encode]

end Sys2Proof.Laws.EncodedFields
end

