-- ==== Sys2Proof/Tests/Slice0.lean ====
section
/-! SUPPORT. Small tests: well-formedness, words written out bit by bit from the spec, one step of each operation with the
spec's own expected value, and a witness for the hypotheses of every statement that has some. -/

namespace Sys2Proof.Tests

open Sys2Proof.Machine

/-! ### Helpers -/

/-- The next state of an outcome. -/
def nextOf : Host.Outcome State Fault Refusal → Option State
  | .next t => some t
  | .fault _ => none
  | .refused _ => none

/-- The refusal of an outcome. -/
def refusalOf : Host.Outcome State Fault Refusal → Option Refusal
  | .next _ => none
  | .fault _ => none
  | .refused r => some r

/-- One step from a state after the host issues a word. -/
def stepWord (w : Nat) (s : State) : Option State := nextOf (step (s.withFetchWord 24 w))

/-- The reset state with the given direction and every other control field 0. -/
def start (d : Direction) : State :=
  { State.reset with ctl := { eren := false, rcen := false, bend := false, dir := d, wsel := 0 } }

/-- A byte buffer with the given pointers holding 01 to 06. -/
def withBytes (wp rp : Nat) (s : State) : State :=
  { s with bb := { data := #v[1, 2, 3, 4, 5, 6], wp := wp, rp := rp }, ist := false, ost := false }

/-- A code-unit buffer with lanes 78 56 34 12, the given pointers and tag, under BEND and a WSEL. -/
def withUnits (wp rp : Nat) (cfg : CuTag) (be : Bool) (wsel : BitVec 2) (s : State) : State :=
  { s with
    cb := { lane := #v[0x78, 0x56, 0x34, 0x12], wp := wp, rp := rp, cfg := cfg }
    ctl := { s.ctl with bend := be, wsel := wsel }, ist := false, ost := false }

/-- The state with the spec's reference parameters, mirrored-lane placement included. -/
def simulated (s : State) : State := { s with config := .reference }

/-! ### Well-formedness: each check refuses a term that breaks it -/

/-- 44_flags_and_reserved R105: index 0x02 is CU, not reserved. -/
theorem test_wellFormed_refuses_read_of_mapped_index : (Instr.rdrsv 0x02).wellFormed .reference = false := by decide
/-- 44_flags_and_reserved R106: index 0x03 is FLAGS, not reserved. -/
theorem test_wellFormed_refuses_write_of_mapped_index : (Instr.wrrsv 0x03 0x55).wellFormed .reference = false := by decide
/-- 00_scope R11: two registers at one index. -/
theorem test_wellFormed_refuses_shared_index :
    Config.wellFormed { Config.reference with addrs := { AddrMap.reference with cu := 0x01 } } = false := by decide
theorem test_wellFormed_accepts_first_and_last_reserved :
    (Instr.rdrsv 0x04).wellFormed .reference = true ∧ (Instr.wrrsv 0xFF 0).wellFormed .reference = true := by decide

/-! ### Decoding: words written bit by bit, KIND IDX DATA (30_encoding R62, R67) -/

theorem test_decode_rdctrl : decode .reference 0b00_00000000_00000000 = .rdctrl := by decide
theorem test_decode_wrctrl : decode .reference 0b01_00000000_10001111 = .wrctrl 0x8F := by decide
theorem test_decode_rdbyte : decode .reference 0b00_00000001_01011010 = .rdbyte := by decide
theorem test_decode_wrbyte : decode .reference 0b01_00000001_11111101 = .wrbyte 0xFD := by decide
theorem test_decode_rdcu : decode .reference 0b00_00000010_00000000 = .rdcu := by decide
theorem test_decode_wrcu : decode .reference 0b01_00000010_00010010 = .wrcu 0x12 := by decide
theorem test_decode_rdflags : decode .reference 0b00_00000011_00000000 = .rdflags := by decide
theorem test_decode_wrflags : decode .reference 0b01_00000011_11111111 = .wrflags 0xFF := by decide
theorem test_decode_rdrsv : decode .reference 0b00_00010000_00000000 = .rdrsv 16 := by decide
theorem test_decode_wrrsv : decode .reference 0b01_11001000_01010101 = .wrrsv 200 0x55 := by decide
theorem test_decode_reset : decode .reference 0b10_10101011_11001101 = .reset := by decide
theorem test_decode_illegal : decode .reference 0b11_00000000_00000000 = .illegal := by decide
/-- With other indices each row takes its register's parameter value (30_encoding R67). -/
theorem test_decode_moved_map :
    decode { ctrl := 0x10, byte := 0x11, cu := 0x12, flags := 0x13 } 0b00_00010000_00000000 = .rdctrl ∧
    decode { ctrl := 0x10, byte := 0x11, cu := 0x12, flags := 0x13 } 0b00_00000000_00000000 = .rdrsv 0 := by decide
theorem test_decodeTableWord_row : decodeTableWord 18 0x10100 = some (.wrbyte 0) := by decide
/-- A bit above bit 17 makes no access word (30_encoding R62). -/
theorem test_decodeTableWord_refuses_long_word : decodeTableWord 24 0x40000 = none := by decide
/-- 30_encoding R70, R71: `cfg BE|DIR_R|W4` is 0x100D9. -/
theorem test_assemble_cfg : ((Pseudo.cfg (asmBE ||| asmDIR_R ||| asmW4)).expand.word .reference) = 0x100D9 := by decide
/-- 95_test_vectors P1: `push.b 0xFD` is 0x101FD. -/
theorem test_assemble_push : ((Pseudo.pushB 0xFD).expand.word .reference) = 0x101FD := by decide

/-! ### One step of each operation (expected values from 95_test_vectors, or by hand from the rule named) -/

/-- C1: `rd ctrl` after reset gives 0x8F. -/
theorem test_rdctrl_after_reset : (stepWord 0x00000 .reset).map (·.results) = some [0x8F] := by decide
/-- C3: `wr ctrl, 0xFF` sets every field and resets nothing. -/
theorem test_wrctrl_all_ones :
    (stepWord 0x100FF (withBytes 3 2 (start .write))).map (fun t => (ctrlByte t, t.bb.wp, t.bb.rp)) = some (0x7E, 3, 2) := by
  decide
/-- C9: writing back 0x10 with both status bits 0 resets both sides. -/
theorem test_wrctrl_write_back :
    (stepWord 0x10010 (withBytes 1 1 (start .read))).map (fun t => (ctrlByte t, t.bb.wp, t.bb.rp)) = some (0x91, 0, 0) := by
  decide
/-- B9, P1: a pop at BB.rp = 5 of 6 returns the last byte and empties the buffer. -/
theorem test_rdbyte_last :
    (stepWord 0x00100 (withBytes 6 5 (start .read))).map (fun t => (t.results, t.bb.rp, flagsByte t)) = some ([6], 6, 0x07) := by
  decide
/-- B5: a read while DIR = Write answers 0x00 and does not pop. -/
theorem test_rdbyte_wrong_direction :
    (stepWord 0x00100 (withBytes 1 0 (start .write))).map (fun t => (t.results, t.bb.rp, t.ost)) = some ([0], 0, false) := by
  decide
/-- P1: BFULL becomes 1 exactly at the 6th push. -/
theorem test_wrbyte_sixth :
    (stepWord 0x101B5 (withBytes 5 0 (start .write))).map (fun t => (flagsByte t, t.bb.wp, cellAt t.bb.data 5)) =
      some (0x06, 6, 0xB5) := by decide
/-- B3: the 7th push is dropped. -/
theorem test_wrbyte_dropped :
    (stepWord 0x10107 (withBytes 6 0 (start .write))).map (fun t => t.bb) = some (withBytes 6 0 (start .write)).bb := by decide
/-- P2: with BE, W4 the fourth pop of 12 34 56 78 gives 0x78, from lane 0; a contract result, so the placement does not
matter. -/
theorem test_rdcu_contract :
    (stepWord 0x00200 (withUnits 4 3 (.be .w4) true 0b10 (start .read))).map (fun t => (t.results, t.cb.rp, t.draws)) =
      some ([0x78], 4, 0) := by decide
/-- U6: pushed BE(4), popped LE under the reference mechanism: the first pop gives 0x78. -/
theorem test_rdcu_mirrored :
    (stepWord 0x00200 (simulated (withUnits 4 0 (.be .w4) false 0b10 (start .read)))).map (·.results) = some [0x78] := by decide
/-- R87 example: the first push under BE, W4 goes to lane 3. -/
theorem test_wrcu_big_endian :
    (stepWord 0x10212 { start .write with ctl := { (start .write).ctl with bend := true, wsel := 0b10 } }).map (fun t => t.cb) =
      some { lane := #v[0, 0, 0, 0x12], wp := 1, rp := 0, cfg := .be .w4 } := by decide
/-- U8: a push under another configuration makes the tag MIXED. -/
theorem test_wrcu_mixed :
    (stepWord 0x10234 (withUnits 1 0 .le true 0b10 (start .write))).map (fun t => (t.cb.cfg, cellAt t.cb.lane 2)) =
      some (.mixed, 0x34) := by decide
/-- P2: after four pushes to the code-unit buffer FLAGS reads 0x09. -/
theorem test_rdflags_unit_full :
    (stepWord 0x00300 (withUnits 4 0 (.be .w4) true 0b10 (start .write))).map (·.results) = some [0x09] := by decide
/-- F2: a write of FLAGS changes nothing. -/
theorem test_wrflags_ignored : stepWord 0x103FF (withBytes 2 1 (start .read)) = some (withBytes 2 1 (start .read)) := by decide
/-- F3: `rd r16` gives 0x00. -/
theorem test_rdrsv_zero : (stepWord 0x01000 (withBytes 2 1 (start .read))).map (·.results) = some [0] := by decide
/-- R106 example: `wr r4, 0x00` performs no reset. -/
theorem test_wrrsv_ignored : stepWord 0x10400 (withBytes 2 1 (start .read)) = some (withBytes 2 1 (start .read)) := by decide
/-- F5: the word 0x2ABCD is RESET. -/
theorem test_reset_word : stepWord 0x2ABCD (withBytes 6 3 (start .read)) = some State.reset := by decide
/-- F4: the word 0x30000 is refused. -/
theorem test_illegal_refused :
    refusalOf (step (State.reset.withFetchWord 24 0x30000)) = some .illegalAccessWord := by decide
/-- R2: with IN_RESET_REWINDS_RP true an input reset rewinds the read pointer; with the reference it does not. -/
theorem test_rewind_parameter :
    (stepWord 0x10011 { withBytes 2 1 (start .read) with config := { Config.chip with inResetRewindsRp := true } }).map
        (·.bb.rp) = some 0 ∧
    (stepWord 0x10011 (withBytes 2 1 (start .read))).map (·.bb.rp) = some 1 := by decide
/-- B6 and B7: an empty pop clears OST only with EMPTY_POP_CLEARS_OST. -/
theorem test_empty_pop_parameter :
    (stepWord 0x00100 { start .read with config := { Config.chip with emptyPopClearsOst := false } }).map (·.ost) = some true ∧
    (stepWord 0x00100 (start .read)).map (·.ost) = some false := by decide

/-! ### Witnesses: states and operands that meet the hypotheses of the statements -/

theorem witness_DecodeInvertsEncode :
    AddrMap.reference.distinct = true ∧ (Instr.rdrsv 0x04).wellFormed .reference = true ∧
    (Instr.wrrsv 0xFF 0xFF).wellFormed .reference = true ∧ (Instr.wrctrl 0xFF).wellFormed .reference = true := by decide
theorem witness_IgnoredFieldsHaveNoMeaning :
    (Instr.rdrsv 0xFF).kind = 0b00#2 ∧ Instr.reset.kind = 0b10#2 := by decide
theorem witness_OpcodeMapFollowsIndexMap :
    kindOf 0x00100 = kindOf 0x0015A ∧ idxOf 0x00100 = idxOf 0x0015A ∧
    AddrMap.reference.distinct = true ∧ (0x04 : Index) ≠ AddrMap.reference.ctrl ∧ (0x04 : Index) ≠ AddrMap.reference.byte ∧
    (0x04 : Index) ≠ AddrMap.reference.cu ∧ (0x04 : Index) ≠ AddrMap.reference.flags := by decide
theorem witness_PseudoInstructionsMeanTheirEffect : AddrMap.reference.distinct = true := by decide
theorem witness_ResetSetsEveryElement : State.reset.config.ctrlReset = .reference := by decide
theorem witness_ExplicitResetIsPowerOnReset :
    (withBytes 6 3 (start .read)).config.ctrlReset = State.reset.config.ctrlReset := by decide
theorem witness_InputResetEmptiesBothBuffers : (0x01 : Byte)[7] = false ∧ (0x01 : Byte)[0] = true := by decide
theorem witness_OutputResetRewindsBothReadPointers : (0x80 : Byte)[7] = true ∧ (0x80 : Byte)[0] = false := by decide
theorem witness_ResetPulsesCommute : (0x7E : Byte)[7] = false ∧ (0x7E : Byte)[0] = false := by decide
theorem witness_ResetsAreIsolatedAndIdempotent : State.reset.config.inResetRewindsRp = false := by decide
/-- Both status bits 0, both 1; then R125's own case, a push and no pop yet (IST = 0, OST = 1), and a pop after an input reset
(IST = 1, OST = 0), both in states that meet the invariants. -/
theorem witness_WritingBackReadStatusResets :
    ((0x10 : Byte)[7] = (withBytes 6 3 (start .read)).ist ∧ (0x10 : Byte)[0] = (withBytes 6 3 (start .read)).ost ∧
      (withBytes 6 3 (start .read)).ist = false ∧ (withBytes 6 3 (start .read)).ost = false) ∧
    ((0x91 : Byte)[7] = State.reset.ist ∧ (0x91 : Byte)[0] = State.reset.ost ∧ State.reset.ist = true ∧ State.reset.ost = true) ∧
    ((0x11 : Byte)[7] = (pushB 7 (start .write)).ist ∧ (0x11 : Byte)[0] = (pushB 7 (start .write)).ost ∧
      (pushB 7 (start .write)).ist = false ∧ (pushB 7 (start .write)).ost = true ∧ (pushB 7 (start .write)).Inv) ∧
    ((0x90 : Byte)[7] = (inputReset (withBytes 6 3 (start .read))).ist ∧
      (0x90 : Byte)[0] = (inputReset (withBytes 6 3 (start .read))).ost ∧
      (inputReset (withBytes 6 3 (start .read))).ist = true ∧ (inputReset (withBytes 6 3 (start .read))).ost = false ∧
      (inputReset (withBytes 6 3 (start .read))).Inv) := by
  decide
theorem witness_CheckEnablesHaveNoEffect :
    Instr.rdbyte ≠ .rdctrl ∧ Instr.rdbyte ≠ .reset ∧ ∀ v : Byte, Instr.rdbyte ≠ .wrctrl v :=
  ⟨by decide, by decide, fun _ => Instr.noConfusion⟩
theorem witness_ControlWriteGovernsNextAccess : (0xEF : Byte)[4] = false ∧ (0x10 : Byte)[4] = true := by decide
/-- The last push with room, and the first without. -/
theorem witness_PushByteStoresOrDrops :
    (withBytes 5 0 (start .write)).ctl.dir = .write ∧ (withBytes 5 0 (start .write)).bb.wp < Cb ∧
    (withBytes 6 0 (start .write)).ctl.dir = .write ∧ ¬ (withBytes 6 0 (start .write)).bb.wp < Cb ∧
    (withBytes 6 0 (start .write)).bb.wp ≤ Cb := by decide
theorem witness_WrongDirectionWritesAreIgnored : (start .read).ctl.dir = .read := by decide
/-- The last stored byte, and the first empty pop. -/
theorem witness_PopByteReturnsOldestOrSentinel :
    (withBytes 6 5 (start .read)).ctl.dir = .read ∧ (withBytes 6 5 (start .read)).bb.rp < Cb ∧
    (withBytes 6 5 (start .read)).bb.rp < (withBytes 6 5 (start .read)).bb.wp ∧
    (withBytes 6 6 (start .read)).ctl.dir = .read ∧
    ¬ (withBytes 6 6 (start .read)).bb.rp < (withBytes 6 6 (start .read)).bb.wp := by decide
theorem witness_WrongDirectionReadsAnswerZero : (start .write).ctl.dir = .write := by decide
theorem witness_FullByteBufferDropsEveryPush :
    (withBytes 6 2 (start .write)).ctl.dir = .write ∧ (withBytes 6 2 (start .write)).bb.wp = Cb := by decide
theorem witness_EmptyByteBufferAnswersZeroForever :
    (withBytes 2 2 (start .read)).ctl.dir = .read ∧ (withBytes 2 2 (start .read)).bb.wp ≤ (withBytes 2 2 (start .read)).bb.rp := by
  decide
/-- A full buffer that an input reset, or RESET, makes not full. -/
theorem witness_OnlyResetsFreeCapacity :
    exec .reset (withBytes 6 6 (start .read)) = .next (blockReset (withBytes 6 6 (start .read))) ∧
    bfull (withBytes 6 6 (start .read)) = true ∧ bfull (blockReset (withBytes 6 6 (start .read))) = false ∧
    ufull (withUnits 4 0 .le false 0 (start .read)) = true ∧
    ufull (blockReset (withUnits 4 0 .le false 0 (start .read))) = false := ⟨rfl, by decide⟩
/-- Six interleaved pushes and six pops (41_byte_buffer R82). -/
theorem witness_ByteBufferIsFifo :
    (start .write).bb.wp = 0 ∧ (start .write).bb.rp = 0 ∧
    (pushedBytes [.push 1, .push 2, .cfg 0x10, .pop, .cfg 0x00, .push 3, .push 4, .push 5, .push 6, .cfg 0x10, .pop, .pop,
      .pop, .pop, .pop]).length = Cb ∧
    legalOps (start .write).ctl.dir 0 [.push 1, .push 2, .cfg 0x10, .pop, .cfg 0x00, .push 3, .push 4, .push 5, .push 6,
      .cfg 0x10, .pop, .pop, .pop, .pop, .pop] = true := by decide
/-- 95_test_vectors B9: `rst.out` with DIR_R on a full and drained buffer. -/
theorem witness_OutputResetReplaysByteBuffer :
    (withBytes 6 6 (start .read)).bb.wp ≤ Cb ∧ (0x9E : Byte)[7] = true ∧ (0x9E : Byte)[0] = false ∧ (0x9E : Byte)[4] = true := by
  decide
/-- Two states that differ in the cells above the write pointer. -/
theorem witness_DeadCellsAreUnobservable :
    SameLiveCells (withBytes 2 0 (start .read))
      { withBytes 2 0 (start .read) with bb := { data := #v[1, 2, 9, 9, 9, 9], wp := 2, rp := 0 } } ∧
    exec .rdbyte (withBytes 2 0 (start .read)) =
      .next (answer (withBytes 2 0 (start .read)).bb.front (popB (withBytes 2 0 (start .read)))) :=
  ⟨⟨#v[1, 2, 9, 9, 9, 9], rfl, fun i h => by
      have h2 : i < 2 := h
      rcases (by omega : i = 0 ∨ i = 1) with rfl | rfl <;> rfl⟩, rfl⟩
theorem witness_InputResetAloneLeavesReadPointer :
    (withBytes 6 3 (start .read)).config.inResetRewindsRp = false ∧ (0x11 : Byte)[7] = false ∧ (0x11 : Byte)[0] = true ∧
    (0x11 : Byte)[4] = true := by decide
theorem witness_LaneTableIsBijective : (3 : Nat) < Cc ∧ laneOf 3 true .w4 = laneOf 3 true .w4 := by decide
/-- The last push with room, under each placement, and the first without. -/
theorem witness_PushUnitStoresInLaneOrDrops :
    (simulated (withUnits 3 0 .le true 0b10 (start .write))).ctl.dir = .write ∧
    (simulated (withUnits 3 0 .le true 0b10 (start .write))).config.placement = .mirroredLane ∧
    laneOf (simulated (withUnits 3 0 .le true 0b10 (start .write))).cb.wp true .w4 < Cc ∧
    (simulated (withUnits 3 0 .le true 0b10 (start .write))).cb.wp < Cc ∧
    (withUnits 3 0 .le true 0b10 (start .write)).config.placement = .undetermined ∧
    (withUnits 3 0 .le true 0b10 (start .write)).cb.wp < Cc ∧
    ¬ (withUnits 4 0 .le true 0b10 (start .write)).cb.wp < Cc ∧ (withUnits 4 0 .le true 0b10 (start .write)).cb.wp ≤ Cc := by
  decide
/-- The last stored byte, and the first empty pop. -/
theorem witness_PopUnitReturnsLaneOrSentinel :
    (simulated (withUnits 4 3 .le true 0b10 (start .read))).ctl.dir = .read ∧
    (simulated (withUnits 4 3 .le true 0b10 (start .read))).config.placement = .mirroredLane ∧
    (simulated (withUnits 4 3 .le true 0b10 (start .read))).cb.rp < Cc ∧
    laneOf 3 true (widthOf (simulated (withUnits 4 3 .le true 0b10 (start .read))).config.widths 0b10) < Cc ∧
    (simulated (withUnits 4 3 .le true 0b10 (start .read))).cb.rp < (simulated (withUnits 4 3 .le true 0b10 (start .read))).cb.wp ∧
    ¬ (simulated (withUnits 4 4 .le true 0b10 (start .read))).cb.rp < (simulated (withUnits 4 4 .le true 0b10 (start .read))).cb.wp := by
  decide
theorem witness_EmptyPopUnitIsAlwaysSentinel :
    (withUnits 4 4 .mixed true 0b10 (start .read)).ctl.dir = .read ∧
    ¬ (withUnits 4 4 .mixed true 0b10 (start .read)).cb.rp < (withUnits 4 4 .mixed true 0b10 (start .read)).cb.wp := by decide
/-- Case (a) of 42_code_unit_buffer R92. -/
theorem witness_ContractPopIsMechanismIndependent_le :
    (withUnits 3 2 .le false 0b10 (start .read)).ctl.dir = .read ∧
    (withUnits 3 2 .le false 0b10 (start .read)).cb.rp < (withUnits 3 2 .le false 0b10 (start .read)).cb.wp ∧
    (withUnits 3 2 .le false 0b10 (start .read)).cb.cfg = .le ∧ (withUnits 3 2 .le false 0b10 (start .read)).ctl.bend = false := by
  decide
/-- Case (b) of 42_code_unit_buffer R92: the last byte of the only complete unit of width 2. -/
theorem witness_ContractPopIsMechanismIndependent_be :
    (withUnits 3 1 (.be .w2) true 0b01 (start .read)).ctl.dir = .read ∧
    (withUnits 3 1 (.be .w2) true 0b01 (start .read)).cb.rp < (withUnits 3 1 (.be .w2) true 0b01 (start .read)).cb.wp ∧
    (withUnits 3 1 (.be .w2) true 0b01 (start .read)).cb.cfg = .be (unitWidth (withUnits 3 1 (.be .w2) true 0b01 (start .read))) ∧
    (withUnits 3 1 (.be .w2) true 0b01 (start .read)).ctl.bend = true ∧
    (1 / UnitWidth.w2.bytes + 1) * UnitWidth.w2.bytes ≤ 3 := by decide
/-- 95_test_vectors P2: the third byte under BE, W2, whose unit is incomplete. -/
theorem witness_MechanismDependentPopIsADraw :
    (withUnits 3 2 (.be .w2) true 0b01 (start .read)).ctl.dir = .read ∧
    (withUnits 3 2 (.be .w2) true 0b01 (start .read)).config.placement = .undetermined ∧
    (withUnits 3 2 (.be .w2) true 0b01 (start .read)).cb.rp < (withUnits 3 2 (.be .w2) true 0b01 (start .read)).cb.wp ∧
    ¬ ((withUnits 3 2 (.be .w2) true 0b01 (start .read)).cb.cfg = .le ∧ true = false) ∧
    ¬ ((withUnits 3 2 (.be .w2) true 0b01 (start .read)).cb.cfg = .be (unitWidth (withUnits 3 2 (.be .w2) true 0b01 (start .read))) ∧
      (withUnits 3 2 (.be .w2) true 0b01 (start .read)).ctl.bend = true ∧
      (2 / UnitWidth.w2.bytes + 1) * UnitWidth.w2.bytes ≤ 3) := by decide
/-- Four pushes, two of them after a pop, with BEND and WSEL kept. -/
theorem witness_UnitBufferRoundTripsUnderConstantPlacement :
    (simulated (start .write)).config.placement = .mirroredLane ∧ (simulated (start .write)).cb.wp = 0 ∧
    (simulated (start .write)).cb.rp = 0 ∧
    keepsPlacement (simulated (start .write)).ctl.bend (simulated (start .write)).ctl.wsel
      [.push 1, .push 2, .cfg 0x10, .pop, .cfg 0x00, .push 3, .push 4, .cfg 0x16, .pop, .pop, .pop] = true ∧
    (pushedBytes [.push 1, .push 2, .cfg 0x10, .pop, .cfg 0x00, .push 3, .push 4, .cfg 0x16, .pop, .pop, .pop]).length ≤ Cc ∧
    legalOps (simulated (start .write)).ctl.dir 0
      [.push 1, .push 2, .cfg 0x10, .pop, .cfg 0x00, .push 3, .push 4, .cfg 0x16, .pop, .pop, .pop] = true := by decide
/-- BE, W4 and one complete unit: the source's literal case (42_code_unit_buffer R92). -/
theorem witness_ContractRoundTrip_fullUnit :
    State.reset.cb.wp = 0 ∧ State.reset.cb.rp = 0 ∧ State.reset.cb.cfg = .none ∧
    keepsPlacement ((0x48 : Byte)[3]) ((0x48 : Byte).extractLsb' 5 2)
      [.push 0x12, .push 0x34, .push 0x56, .push 0x78, .cfg 0x58, .pop, .pop, .pop, .pop] = true ∧
    (pushedBytes [.push 0x12, .push 0x34, .push 0x56, .push 0x78, .cfg 0x58, .pop, .pop, .pop, .pop]).length ≤ Cc ∧
    legalOps (dirOfBit ((0x48 : Byte)[4])) 0
      [.push 0x12, .push 0x34, .push 0x56, .push 0x78, .cfg 0x58, .pop, .pop, .pop, .pop] = true ∧
    contractOps ((0x48 : Byte)[3]) (widthOf State.reset.config.widths ((0x48 : Byte).extractLsb' 5 2)) 0 0
      [.push 0x12, .push 0x34, .push 0x56, .push 0x78, .cfg 0x58, .pop, .pop, .pop, .pop] = true := by decide
/-- 95_test_vectors P2, second half up to its two contract pops: the last BE unit of width 2 is incomplete. -/
theorem witness_ContractRoundTrip_partialUnit :
    keepsPlacement ((0x28 : Byte)[3]) ((0x28 : Byte).extractLsb' 5 2)
      [.push 0xAB, .push 0xCD, .push 0xEF, .cfg 0x38, .pop, .pop] = true ∧
    (pushedBytes [.push 0xAB, .push 0xCD, .push 0xEF, .cfg 0x38, .pop, .pop]).length ≤ Cc ∧
    legalOps (dirOfBit ((0x28 : Byte)[4])) 0 [.push 0xAB, .push 0xCD, .push 0xEF, .cfg 0x38, .pop, .pop] = true ∧
    contractOps ((0x28 : Byte)[3]) (widthOf State.reset.config.widths ((0x28 : Byte).extractLsb' 5 2)) 0 0
      [.push 0xAB, .push 0xCD, .push 0xEF, .cfg 0x38, .pop, .pop] = true ∧
    contractOps ((0x28 : Byte)[3]) (widthOf State.reset.config.widths ((0x28 : Byte).extractLsb' 5 2)) 0 0
      [.push 0xAB, .push 0xCD, .push 0xEF, .cfg 0x38, .pop, .pop, .pop] = false := by decide
/-- LE, W4, pushes and pops interleaved, three bytes in all. -/
theorem witness_ContractRoundTrip_interleaved :
    keepsPlacement ((0x40 : Byte)[3]) ((0x40 : Byte).extractLsb' 5 2)
      [.push 1, .cfg 0x50, .pop, .cfg 0x40, .push 2, .push 3, .cfg 0x50, .pop, .pop] = true ∧
    (pushedBytes [.push 1, .cfg 0x50, .pop, .cfg 0x40, .push 2, .push 3, .cfg 0x50, .pop, .pop]).length ≤ Cc ∧
    legalOps (dirOfBit ((0x40 : Byte)[4])) 0
      [.push 1, .cfg 0x50, .pop, .cfg 0x40, .push 2, .push 3, .cfg 0x50, .pop, .pop] = true ∧
    contractOps ((0x40 : Byte)[3]) (widthOf State.reset.config.widths ((0x40 : Byte).extractLsb' 5 2)) 0 0
      [.push 1, .cfg 0x50, .pop, .cfg 0x40, .push 2, .push 3, .cfg 0x50, .pop, .pop] = true := by decide
theorem witness_SwitchedEndiannessReversesUnits :
    (simulated State.reset).config.placement = .mirroredLane ∧ (simulated State.reset).cb.wp = 0 ∧
    (simulated State.reset).cb.rp = 0 ∧ (0x48 : Byte)[3] = true := by decide
/-- A pop that draws. -/
theorem witness_OnlyUndeterminedPopsDraw :
    exec .rdcu (withUnits 3 2 (.be .w2) true 0b01 (start .read)) =
      .next (answer (frontU (withUnits 3 2 (.be .w2) true 0b01 (start .read))) (popU (withUnits 3 2 (.be .w2) true 0b01 (start .read)))) ∧
    (popU (withUnits 3 2 (.be .w2) true 0b01 (start .read))).draws ≠ (withUnits 3 2 (.be .w2) true 0b01 (start .read)).draws :=
  ⟨rfl, by decide⟩
theorem witness_IllegalWordIsRefused :
    (State.reset.withFetchWord 24 0x3ABCD).pending = [.word (packWord 0b11 0xAB 0xCD)] := by decide
theorem witness_StatusTransitions :
    exec .rdbyte (withBytes 6 5 (start .read)) =
      .next (answer (withBytes 6 5 (start .read)).bb.front (popB (withBytes 6 5 (start .read)))) := rfl
theorem witness_EveryOperationCompletes : Instr.wrrsv 0xFF 0 ≠ .illegal := by decide
/-- A byte push that changes the byte buffer; and a pop that changes the code-unit buffer. -/
theorem witness_OnlyItsOwnOperationsChangeAnElement :
    exec (.wrbyte 7) (withBytes 5 0 (start .write)) = .next (pushB 7 (withBytes 5 0 (start .write))) ∧
    (pushB 7 (withBytes 5 0 (start .write))).bb ≠ (withBytes 5 0 (start .write)).bb ∧
    Instr.wrbyte 7 ≠ .reset ∧ (∀ v : Byte, Instr.wrbyte 7 ≠ .wrctrl v) ∧
    (popU (withUnits 4 0 .le false 0 (start .read))).cb ≠ (withUnits 4 0 .le false 0 (start .read)).cb :=
  ⟨rfl, by decide, by decide, fun _ => Instr.noConfusion, by decide⟩
theorem witness_RepeatableReadsChangeNothing :
    Instr.rdcu = .rdcu ∧ (withUnits 4 0 .le false 0 (start .write)).ctl.dir = .write := by decide
theorem witness_EveryReadAnswersOneValue :
    exec .rdflags State.reset = .next (answer (flagsByte State.reset) State.reset) ∧ Instr.rdflags.kind = 0b00#2 ∧
    (Instr.wrctrl 0).kind ≠ 0b00#2 := ⟨rfl, by decide⟩
theorem witness_FullResetHidesRewindParameter :
    (∀ v : Byte, Instr.rdbyte ≠ .wrctrl v) ∧ ((0x00 : Byte)[7] = false → (0x00 : Byte)[0] = false) :=
  ⟨fun _ => Instr.noConfusion, by decide⟩
theorem witness_SupportedPushesAreStored :
    chipSupported (.wrbyte 7) (withBytes 5 0 (start .write)) = true ∧
    chipSupported (.wrcu 7) (withUnits 3 0 .le true 0b10 (start .write)) = true ∧
    chipSupported (.wrcu 7) (simulated (withUnits 3 0 .le true 0b10 (start .write))) = true ∧
    (simulated (withUnits 3 0 .le true 0b10 (start .write))).config.placement = .mirroredLane := by decide
theorem witness_StepRunsDecodedWord :
    (State.reset.withFetchWord 24 0x10102).pending = .word 0x10102 :: State.reset.pending := by decide
theorem witness_IdleStepChangesNothing : State.reset.pending = [] := by decide
theorem witness_AccessesOutsideTheInterfaceAreRefused :
    32 ≠ 8 ∧ (issueNext (.otherWidth 32 0) State.reset).pending = .otherWidth 32 0 :: [] ∧
    (issueNext (.fetch 0) State.reset).pending = .fetch 0 :: [] ∧
    (issueNext (.secondAgent 0) State.reset).pending = .secondAgent 0 :: [] ∧
    (issueNext (.resetDuring 0) State.reset).pending = .resetDuring 0 :: [] ∧
    (State.reset.withFetchWord 24 0x40000).pending = .overlong 0x40000 :: [] := by decide
/-- A state with both buffers in use that meets the invariants, and a step from it. -/
theorem witness_StepKeepsInvariants :
    (withBytes 6 3 (start .read)).Inv ∧
    (step ((withBytes 6 3 (start .read)).withFetchWord 24 0x00100)) =
      .next (answer (withBytes 6 3 (start .read)).bb.front (popB (withBytes 6 3 (start .read)))) := ⟨by decide, rfl⟩
theorem witness_StepKeepsTagMeaning :
    (withUnits 3 0 .le false 0 (start .write)).TagInv ∧
    step ((withUnits 3 0 .le false 0 (start .write)).withFetchWord 24 0x10207) =
      .next (pushU 7 (withUnits 3 0 .le false 0 (start .write))) := ⟨by decide, rfl⟩
/-- 42_code_unit_buffer R87, R90 example: 12 34 56 78 pushed BE(4), the last byte still to be popped; and an operation on that
state. The hypotheses of StepKeepsTagMeaning, second clause, and of ContractPopIsMechanismIndependent, second clause. -/
theorem witness_HoldsPushed_be :
    HoldsPushed [0x12, 0x34, 0x56, 0x78] (withUnits 4 3 (.be .w4) true 0b10 (start .read)) ∧
    (withUnits 4 3 (.be .w4) true 0b10 (start .read)).cb.rp < ([0x12, 0x34, 0x56, 0x78] : List Byte).length ∧
    exec .rdcu (withUnits 4 3 (.be .w4) true 0b10 (start .read)) =
      .next (answer (frontU (withUnits 4 3 (.be .w4) true 0b10 (start .read)))
        (popU (withUnits 4 3 (.be .w4) true 0b10 (start .read)))) := by
  refine ⟨⟨rfl, by decide, by decide, fun w hw => ?_⟩, by decide, exec_rdcu_read rfl⟩
  cases w
  · exact absurd hw (by decide)
  · exact absurd hw (by decide)
  · decide
/-- A step that answers a next state: the hypothesis of StepKeepsParameters and of StepConsumesOneEvent. -/
theorem witness_StepAnswersNext :
    step (State.reset.withFetchWord 24 0x00000) = .next (answer (ctrlByte State.reset) State.reset) := rfl
/-- The second clause of StepConsumesOneEvent, right after reset and with no setup (70_reset_and_hazards R123): `wr ctrl, 0x00`
and `wr byte, 0xFD`, neither of KIND 0b11. -/
theorem witness_StepConsumesOneEvent_noSetup :
    State.reset.pending = [] ∧ ∀ w ∈ ([0x10000, 0x101FD] : List AccessWord), kindOf w ≠ 0b11#2 :=
  ⟨rfl, by simp only [List.forall_mem_cons]; exact ⟨by decide, by decide, by simp⟩⟩

end Sys2Proof.Tests
end

section
/-! SUPPORT. The facts of the state layer that the invariants need: the outcomes by DIR that Laws/Exec.lean leaves out, how the
pointers move, and that a property every operation keeps is kept by every step. -/

namespace Sys2Proof.Machine

/-! ### Outcomes -/

@[simp] theorem exec_wrflags (v : Byte) (s : State) : exec (.wrflags v) s = .next s := rfl
@[simp] theorem exec_rdrsv (idx : Index) (s : State) : exec (.rdrsv idx) s = .next (answer 0x00 s) := rfl
@[simp] theorem exec_wrrsv (idx : Index) (v : Byte) (s : State) : exec (.wrrsv idx v) s = .next s := rfl

theorem exec_wrbyte_read {s : State} (h : s.ctl.dir = .read) (v : Byte) :
    exec (.wrbyte v) s = .next s := by simp [exec, execWrbyte, h]

theorem exec_rdbyte_write {s : State} (h : s.ctl.dir = .write) :
    exec .rdbyte s = .next (answer 0x00 s) := by simp [exec, execRdbyte, h]

theorem exec_wrcu_read {s : State} (h : s.ctl.dir = .read) (v : Byte) :
    exec (.wrcu v) s = .next s := by simp [exec, execWrcu, h]

theorem exec_rdcu_write {s : State} (h : s.ctl.dir = .write) :
    exec .rdcu s = .next (answer 0x00 s) := by simp [exec, execRdcu, h]

/-- A property that does not read the host's queue and that every completing operation keeps is kept by every step. -/
theorem step_keeps {P : State → Prop} (hdrop : ∀ rest s, P s → P (dropEvent rest s))
    (hexec : ∀ i s t, P s → exec i s = .next t → P t) {s t : State} (hs : P s) (h : step s = .next t) : P t := by
  obtain ⟨-, rfl⟩ | ⟨w, rest, -, hx⟩ := step_next_cases h
  · exact hs
  · exact hexec _ _ _ (hdrop rest s hs) hx

/-! ### Pointers -/

theorem ByteBuffer.push_wp_le {b : ByteBuffer} (h : b.wp ≤ Cb) (v : Byte) : (b.push v).wp ≤ Cb := by
  unfold ByteBuffer.push
  split
  · next hroom => exact hroom
  · exact h

theorem ByteBuffer.wp_le_push_wp (b : ByteBuffer) (v : Byte) : b.wp ≤ (b.push v).wp := by
  unfold ByteBuffer.push
  split
  · exact Nat.le_succ _
  · exact le_rfl

/-- A pop moves the read pointer only below the write pointer, so no bound of the write pointer is passed. -/
theorem ByteBuffer.pop_rp_le {b : ByteBuffer} {n : Nat} (hr : b.rp ≤ n) (hw : b.wp ≤ n) : b.pop.rp ≤ n := by
  unfold ByteBuffer.pop
  split
  · next hstored => exact Nat.le_trans hstored hw
  · exact hr

theorem CodeUnitBuffer.push_wp_le {b : CodeUnitBuffer} (h : b.wp ≤ Cc) (v : Byte) (j : Nat) (k : CuTag) :
    (b.push v j k).wp ≤ Cc := by
  unfold CodeUnitBuffer.push
  split
  · next hroom => exact hroom
  · exact h

theorem CodeUnitBuffer.wp_le_push_wp (b : CodeUnitBuffer) (v : Byte) (j : Nat) (k : CuTag) :
    b.wp ≤ (b.push v j k).wp := by
  unfold CodeUnitBuffer.push
  split
  · exact Nat.le_succ _
  · exact le_rfl

theorem CodeUnitBuffer.pop_rp_le {b : CodeUnitBuffer} {n : Nat} (hr : b.rp ≤ n) (hw : b.wp ≤ n) : b.pop.rp ≤ n := by
  unfold CodeUnitBuffer.pop
  split
  · next hstored => exact Nat.le_trans hstored hw
  · exact hr

/-- OST survives a pop only when it was 1 and the pop returned no stored byte (43_direction_reset_controller R99). -/
theorem empty_and_ost_of_ostAfterPop {s : State} {stored : Bool} (h : ostAfterPop s stored = true) :
    stored = false ∧ s.ost = true := by
  cases stored with
  | true => simp [ostAfterPop_stored] at h
  | false =>
    rw [ostAfterPop_empty] at h
    split at h
    · cases h
    · exact ⟨rfl, h⟩

end Sys2Proof.Machine
end

section
/-! The invariants of R40: each shared operation keeps them, so every operation and every step does. -/

namespace Sys2Proof.Machine

theorem inv_of_empty {s : State} (hb : s.bb = .empty) (hc : s.cb = .empty) : s.Inv := by
  unfold State.Inv
  rw [hb, hc]
  simp [ByteBuffer.empty, CodeUnitBuffer.empty]

section
variable {s : State} (h : s.Inv)
include h

theorem inv_pushB (v : Byte) : (pushB v s).Inv := by
  obtain ⟨⟨hbw, hbr, hc⟩, -, host, hrew⟩ := h
  refine ⟨⟨ByteBuffer.push_wp_le hbw v, by simpa using hbr, hc⟩, by simp, by simpa using host, fun hr => ?_⟩
  obtain ⟨hb, hu⟩ := hrew hr
  exact ⟨by simpa using hb.trans (ByteBuffer.wp_le_push_wp s.bb v), hu⟩

theorem inv_pushU (v : Byte) : (pushU v s).Inv := by
  obtain ⟨⟨hbw, hbr, hcw, hcr⟩, -, host, hrew⟩ := h
  refine ⟨⟨hbw, hbr, CodeUnitBuffer.push_wp_le hcw .., by simpa using hcr⟩, by simp, by simpa using host, fun hr => ?_⟩
  obtain ⟨hb, hu⟩ := hrew hr
  exact ⟨hb, by simpa using hu.trans (CodeUnitBuffer.wp_le_push_wp s.cb ..)⟩

theorem inv_popB : (popB s).Inv := by
  obtain ⟨⟨hbw, hbr, hc⟩, hist, host, hrew⟩ := h
  refine ⟨⟨by simpa using hbw, ByteBuffer.pop_rp_le hbr hbw, hc⟩, by simpa using hist, fun hpop => ?_, fun hr => ?_⟩
  · obtain ⟨hempty, hone⟩ := empty_and_ost_of_ostAfterPop hpop
    have hb : ¬ s.bb.rp < s.bb.wp := (bempty_eq_true_iff s).1 (by simpa using hempty)
    simpa [ByteBuffer.pop_of_empty hb] using host hone
  · obtain ⟨hb, hu⟩ := hrew hr
    exact ⟨by simpa using ByteBuffer.pop_rp_le hb le_rfl, hu⟩

theorem inv_popU : (popU s).Inv := by
  obtain ⟨⟨hbw, hbr, hcw, hcr⟩, hist, host, hrew⟩ := h
  refine ⟨⟨hbw, hbr, by simpa using hcw, CodeUnitBuffer.pop_rp_le hcr hcw⟩, by simpa using hist,
    fun hpop => ?_, fun hr => ?_⟩
  · obtain ⟨hempty, hone⟩ := empty_and_ost_of_ostAfterPop hpop
    have hu : ¬ s.cb.rp < s.cb.wp := (uempty_eq_true_iff s).1 (by simpa using hempty)
    simpa [CodeUnitBuffer.pop_of_empty hu] using host hone
  · obtain ⟨hb, hu⟩ := hrew hr
    exact ⟨hb, by simpa using CodeUnitBuffer.pop_rp_le hu le_rfl⟩

theorem inv_outputReset : (outputReset s).Inv := by
  obtain ⟨⟨hbw, -, hcw, -⟩, hist, -, -⟩ := h
  exact ⟨⟨hbw, Nat.zero_le _, hcw, Nat.zero_le _⟩, hist, fun _ => ⟨rfl, rfl⟩,
    fun _ => ⟨Nat.zero_le _, Nat.zero_le _⟩⟩

/-- The last clause is where IN_RESET_REWINDS_RP matters: with the write pointers at 0 the read pointers have to be there. -/
theorem inv_inputReset : (inputReset s).Inv := by
  obtain ⟨⟨-, hbr, -, hcr⟩, -, host, -⟩ := h
  cases hr : s.config.inResetRewindsRp with
  | true => simp [State.Inv, ByteBuffer.inputReset, CodeUnitBuffer.inputReset, hr]
  | false => simpa [State.Inv, ByteBuffer.inputReset, CodeUnitBuffer.inputReset, hr] using ⟨⟨hbr, hcr⟩, host⟩

theorem inv_controlWrite (v : Byte) : (controlWrite v s).Inv := by
  have hstored : (storeFields v s).Inv := h
  unfold controlWrite
  cases pulsesInputReset v <;> cases pulsesOutputReset v
  · exact hstored
  · exact inv_outputReset hstored
  · exact inv_inputReset hstored
  · exact inv_outputReset (inv_inputReset hstored)

theorem inv_exec {i : Instr} {t : State} (hx : exec i s = .next t) : t.Inv := by
  obtain ⟨-, -, rfl⟩ | ⟨-, v, rfl⟩ | ⟨-, rfl⟩ | ⟨v, -, rfl⟩ | ⟨v, -, -, rfl⟩ | ⟨-, -, rfl⟩ |
    ⟨v, -, -, rfl⟩ | ⟨-, -, rfl⟩ :=
    exec_next_cases hx
  · exact h
  · exact h
  · exact inv_of_empty rfl rfl
  · exact inv_controlWrite h v
  · exact inv_pushB h v
  · exact inv_popB h
  · exact inv_pushU h v
  · exact inv_popU h

end

/-- Settles O57: the invariants do not read the host's queue, and every operation keeps them (`inv_exec`). -/
theorem stepKeepsInvariants : Obligations.StepKeepsInvariants :=
  fun _ _ => step_keeps (P := State.Inv) (fun _ _ h => h) fun _ _ _ h hx => inv_exec h hx

end Sys2Proof.Machine
end

section
/-! Byte-buffer cells at or above the write pointer (R31): `SameLiveCells` is kept by every shared operation, and nothing that
an operation answers or branches on tells two such states apart. -/

namespace Sys2Proof.Machine

namespace SameLiveCells

theorem refl (s : State) : SameLiveCells s s := ⟨s.bb.data, rfl, fun _ _ => rfl⟩

section
variable {s t : State} (h : SameLiveCells s t)
include h

/-! ### What is observed is the same -/

theorem dir_eq : t.ctl.dir = s.ctl.dir := by obtain ⟨_, rfl, _⟩ := h; rfl
theorem results_eq : t.results = s.results := by obtain ⟨_, rfl, _⟩ := h; rfl
theorem ctrlByte_eq : ctrlByte t = ctrlByte s := by obtain ⟨_, rfl, _⟩ := h; rfl
theorem flagsByte_eq : flagsByte t = flagsByte s := by obtain ⟨_, rfl, _⟩ := h; rfl
theorem frontU_eq : frontU t = frontU s := by obtain ⟨_, rfl, _⟩ := h; rfl

/-- A pop reads a cell only below the write pointer. -/
theorem front_eq : t.bb.front = s.bb.front := by
  obtain ⟨d, rfl, hd⟩ := h
  by_cases hs : s.bb.rp < s.bb.wp
  · simpa [ByteBuffer.front, hs] using hd _ hs
  · simp [ByteBuffer.front, hs]

/-! ### What each operation leaves is the same again -/

theorem answer (v : Byte) : SameLiveCells (answer v s) (answer v t) := by
  obtain ⟨d, rfl, hd⟩ := h
  exact ⟨d, rfl, hd⟩

theorem pushU (v : Byte) : SameLiveCells (pushU v s) (pushU v t) := by
  obtain ⟨d, rfl, hd⟩ := h
  exact ⟨d, rfl, hd⟩

theorem popU : SameLiveCells (popU s) (popU t) := by
  obtain ⟨d, rfl, hd⟩ := h
  exact ⟨d, rfl, hd⟩

theorem popB : SameLiveCells (popB s) (popB t) := by
  obtain ⟨d, rfl, hd⟩ := h
  refine ⟨d, ?_, by simpa using hd⟩
  by_cases hs : s.bb.rp < s.bb.wp <;> simp [Machine.popB, ByteBuffer.pop, hs, ostAfterPop, bempty]

/-- A stored push makes one more cell live, and gives it the same byte in both states. -/
theorem pushB (v : Byte) : SameLiveCells (pushB v s) (pushB v t) := by
  obtain ⟨d, rfl, hd⟩ := h
  by_cases hroom : s.bb.wp < Cb
  · refine ⟨d.setIfInBounds s.bb.wp v, by simp [Machine.pushB, ByteBuffer.push, hroom], fun i hi => ?_⟩
    simp only [pushB_bb, ByteBuffer.push_of_room hroom] at hi ⊢
    obtain hlt | rfl := Nat.lt_succ_iff_lt_or_eq.1 hi
    · rw [cellAt_set_other _ hlt.ne', cellAt_set_other _ hlt.ne', hd i hlt]
    · rw [cellAt_set_same _ hroom, cellAt_set_same _ hroom]
  · refine ⟨d, by simp [Machine.pushB, ByteBuffer.push, hroom], ?_⟩
    simpa [ByteBuffer.push_of_full hroom] using hd

theorem storeFields (v : Byte) : SameLiveCells (storeFields v s) (storeFields v t) := by
  obtain ⟨d, rfl, hd⟩ := h
  exact ⟨d, rfl, hd⟩

theorem outputReset : SameLiveCells (outputReset s) (outputReset t) := by
  obtain ⟨d, rfl, hd⟩ := h
  exact ⟨d, rfl, hd⟩

/-- An input reset clears every cell, so the two states become one. -/
theorem inputReset : SameLiveCells (inputReset s) (inputReset t) := by
  obtain ⟨d, rfl, -⟩ := h
  exact refl _

theorem blockReset : SameLiveCells (blockReset s) (blockReset t) := by
  obtain ⟨d, rfl, -⟩ := h
  exact refl _

theorem controlWrite (v : Byte) : SameLiveCells (controlWrite v s) (controlWrite v t) := by
  have hstored := h.storeFields v
  unfold Machine.controlWrite
  cases pulsesInputReset v <;> cases pulsesOutputReset v
  · exact hstored
  · exact hstored.outputReset
  · exact hstored.inputReset
  · exact hstored.inputReset.outputReset

theorem exec_next {i : Instr} {s' : State} (hx : exec i s = .next s') :
    ∃ t' : State, exec i t = .next t' ∧ SameLiveCells s' t' := by
  cases i with
  | reset => cases hx; exact ⟨_, exec_reset t, h.blockReset⟩
  | rdctrl => cases hx; exact ⟨_, exec_rdctrl t, h.ctrlByte_eq ▸ h.answer _⟩
  | wrctrl v => cases hx; exact ⟨_, exec_wrctrl v t, h.controlWrite v⟩
  | rdbyte =>
    cases hd : s.ctl.dir with
    | write =>
      cases (exec_rdbyte_write hd).symm.trans hx
      exact ⟨_, exec_rdbyte_write (h.dir_eq.trans hd), h.answer _⟩
    | read =>
      cases (exec_rdbyte_read hd).symm.trans hx
      exact ⟨_, exec_rdbyte_read (h.dir_eq.trans hd), h.front_eq ▸ h.popB.answer _⟩
  | wrbyte v =>
    cases hd : s.ctl.dir with
    | write =>
      cases (exec_wrbyte_write hd v).symm.trans hx
      exact ⟨_, exec_wrbyte_write (h.dir_eq.trans hd) v, h.pushB v⟩
    | read =>
      cases (exec_wrbyte_read hd v).symm.trans hx
      exact ⟨_, exec_wrbyte_read (h.dir_eq.trans hd) v, h⟩
  | rdcu =>
    cases hd : s.ctl.dir with
    | write =>
      cases (exec_rdcu_write hd).symm.trans hx
      exact ⟨_, exec_rdcu_write (h.dir_eq.trans hd), h.answer _⟩
    | read =>
      cases (exec_rdcu_read hd).symm.trans hx
      exact ⟨_, exec_rdcu_read (h.dir_eq.trans hd), h.frontU_eq ▸ h.popU.answer _⟩
  | wrcu v =>
    cases hd : s.ctl.dir with
    | write =>
      cases (exec_wrcu_write hd v).symm.trans hx
      exact ⟨_, exec_wrcu_write (h.dir_eq.trans hd) v, h.pushU v⟩
    | read =>
      cases (exec_wrcu_read hd v).symm.trans hx
      exact ⟨_, exec_wrcu_read (h.dir_eq.trans hd) v, h⟩
  | rdflags => cases hx; exact ⟨_, exec_rdflags t, h.flagsByte_eq ▸ h.answer _⟩
  | wrflags v => cases hx; exact ⟨_, exec_wrflags v t, h⟩
  | rdrsv idx => cases hx; exact ⟨_, exec_rdrsv idx t, h.answer _⟩
  | wrrsv idx v => cases hx; exact ⟨_, exec_wrrsv idx v t, h⟩
  | illegal => cases hx

end

end SameLiveCells

/-- Settles O32: each operation's effect keeps the two states alike (`SameLiveCells.exec_next`), and alike states have the same
results. -/
theorem deadCellsAreUnobservable : Obligations.DeadCellsAreUnobservable := by
  intro i s t s' hst hx
  obtain ⟨t', ht, hlive⟩ := hst.exec_next hx
  exact ⟨t', ht, hlive, hlive.results_eq⟩

end Sys2Proof.Machine
end

section
/-! Which operations change the buffers (R24 to R36), and the meaning of the tag CB.cfg (R37). -/

namespace Sys2Proof.Machine

/-- Settles O49, by the cases of what an operation can have done: only the four pushes and pops touch a buffer. -/
theorem onlyItsOwnOperationsChangeAnElement : Obligations.OnlyItsOwnOperationsChangeAnElement := by
  intro i s t hx hreset hctrl
  obtain ⟨-, -, rfl⟩ | ⟨-, v, rfl⟩ | ⟨rfl, -⟩ | ⟨v, rfl, -⟩ | ⟨v, rfl, hd, rfl⟩ | ⟨rfl, hd, rfl⟩ | ⟨v, rfl, hd, rfl⟩ |
    ⟨rfl, hd, rfl⟩ := exec_next_cases hx
  · exact ⟨rfl, absurd rfl, absurd rfl⟩
  · exact ⟨rfl, absurd rfl, absurd rfl⟩
  · exact absurd rfl hreset
  · exact absurd rfl (hctrl v)
  · exact ⟨rfl, fun _ => .inl ⟨⟨v, rfl⟩, hd, by simp⟩, absurd rfl⟩
  · exact ⟨rfl, fun _ => .inr ⟨rfl, hd, by simp, by simp⟩, absurd rfl⟩
  · exact ⟨rfl, absurd rfl, fun _ => .inl ⟨⟨v, rfl⟩, hd, by simp⟩⟩
  · exact ⟨rfl, absurd rfl, fun _ => .inr ⟨rfl, hd, by simp, by simp, by simp⟩⟩

/-! ### NONE means nothing pushed -/

theorem tagInv_pushU {s : State} (h : s.TagInv) (v : Byte) : (pushU v s).TagInv := by
  by_cases hroom : s.cb.wp < Cc
  · simp [State.TagInv, CodeUnitBuffer.push_of_room hroom, tagAfterPush_ne_none (placementKey_ne_none s)]
  · simpa [State.TagInv, CodeUnitBuffer.push_of_full hroom] using h

theorem tagInv_controlWrite {s : State} (h : s.TagInv) (v : Byte) : (controlWrite v s).TagInv := by
  unfold State.TagInv
  rw [controlWrite_cb]
  cases pulsesInputReset v with
  | true => simp
  | false => exact h

theorem tagInv_exec {i : Instr} {s t : State} (h : s.TagInv) (hx : exec i s = .next t) : t.TagInv := by
  obtain ⟨-, -, rfl⟩ | ⟨-, v, rfl⟩ | ⟨-, rfl⟩ | ⟨v, -, rfl⟩ | ⟨v, -, -, rfl⟩ | ⟨-, -, rfl⟩ |
    ⟨v, -, -, rfl⟩ | ⟨-, -, rfl⟩ :=
    exec_next_cases hx
  · exact h
  · exact h
  · exact iff_of_true rfl rfl
  · exact tagInv_controlWrite h v
  · exact h
  · exact h
  · exact tagInv_pushU h v
  · simpa [State.TagInv] using h

/-! ### LE and BE(W) mean the bytes pushed -/

/-- The bytes stand in the lanes a placement gives their indices. -/
def BytesAt (place : Nat → Nat) (lane : Vector Byte Cc) (bs : List Byte) : Prop :=
  ∀ (i : Nat) (h : i < bs.length), cellAt lane (place i) = bs[i]

/-- A byte stored in the lane of the next index joins those already there, since no two indices share a lane. -/
theorem BytesAt.snoc {be : Bool} {w : UnitWidth} {lane : Vector Byte Cc} {bs : List Byte}
    (h : BytesAt (laneOf · be w) lane bs) (hroom : bs.length < Cc) (v : Byte) :
    BytesAt (laneOf · be w) (lane.setIfInBounds (laneOf bs.length be w) v) (bs ++ [v]) := by
  intro i hi
  obtain hlt | rfl : i < bs.length ∨ i = bs.length := by
    simp only [List.length_append, List.length_singleton] at hi
    omega
  · have hne : laneOf bs.length be w ≠ laneOf i be w := fun heq =>
      hlt.ne' (laneOf_injective hroom (hlt.trans hroom) heq)
    rw [cellAt_set_other _ hne, h i hlt, List.getElem_append_left hlt]
  · rw [cellAt_set_same _ (laneOf_lt hroom be w), List.getElem_concat_length rfl]

theorem holdsPushed_iff (bs : List Byte) (s : State) :
    HoldsPushed bs s ↔ s.cb.wp = bs.length ∧ (s.cb.cfg = .none ↔ bs = []) ∧
      (s.cb.cfg = .le → ∀ w, BytesAt (laneOf · false w) s.cb.lane bs) ∧
      ∀ w, s.cb.cfg = .be w → BytesAt (laneOf · true w) s.cb.lane bs :=
  ⟨fun ⟨hwp, hnone, hle, hbe⟩ => ⟨hwp, hnone, fun hc _ => hle hc, hbe⟩,
    fun ⟨hwp, hnone, hle, hbe⟩ => ⟨hwp, hnone, fun hc => hle hc .w1, hbe⟩⟩

theorem holdsPushed_nil {s : State} (hwp : s.cb.wp = 0) (hcfg : s.cb.cfg = .none) : HoldsPushed [] s :=
  ⟨hwp, by simp [hcfg], by simp [hcfg], by simp [hcfg]⟩

/-- `HoldsPushed` reads the write pointer, the tag and the lanes alone. -/
theorem HoldsPushed.congr {bs : List Byte} {s t : State} (h : HoldsPushed bs s) (hlane : t.cb.lane = s.cb.lane)
    (hwp : t.cb.wp = s.cb.wp) (hcfg : t.cb.cfg = s.cb.cfg) : HoldsPushed bs t := by
  unfold HoldsPushed
  rw [hlane, hwp, hcfg]
  exact h

theorem HoldsPushed.of_cb_eq {bs : List Byte} {s t : State} (h : HoldsPushed bs s) (hcb : t.cb = s.cb) :
    HoldsPushed bs t :=
  h.congr (by rw [hcb]) (by rw [hcb]) (by rw [hcb])

/-- A push leaves a tag other than MIXED only if it is the push's own key, and the buffer was empty or already had it. -/
theorem eq_of_tagAfterPush {c k x : CuTag} (h : tagAfterPush c k = x) (hx : x ≠ .mixed) :
    k = x ∧ (c = .none ∨ c = x) := by
  unfold tagAfterPush at h
  split at h
  · next hc => exact ⟨h, .inl hc⟩
  · split at h
    · next hc => exact ⟨h, .inr (hc.trans h)⟩
    · exact absurd h.symm hx

theorem placementKey_eq_le_iff (s : State) : placementKey s = .le ↔ s.ctl.bend = false := by
  unfold placementKey
  cases s.ctl.bend <;> simp

theorem placementKey_eq_be_iff (s : State) (w : UnitWidth) :
    placementKey s = .be w ↔ s.ctl.bend = true ∧ unitWidth s = w := by
  unfold placementKey
  cases s.ctl.bend <;> simp

theorem bytesAt_nil (place : Nat → Nat) (lane : Vector Byte Cc) : BytesAt place lane [] :=
  fun _ h => absurd h (Nat.not_lt_zero _)

theorem holdsPushed_pushU_of_room {bs : List Byte} {s : State} (h : HoldsPushed bs s) (hroom : s.cb.wp < Cc) (v : Byte) :
    HoldsPushed (bs ++ [v]) (pushU v s) := by
  obtain ⟨hwp, hnone, hle, hbe⟩ := (holdsPushed_iff bs s).1 h
  have hlen : bs.length < Cc := hwp ▸ hroom
  rw [holdsPushed_iff, pushU_cb, CodeUnitBuffer.push_of_room hroom]
  refine ⟨by simp [hwp], by simp [tagAfterPush_ne_none (placementKey_ne_none s)], fun htag w => ?_, fun w htag => ?_⟩
  · obtain ⟨hkey, hold⟩ := eq_of_tagAfterPush htag (by simp)
    have hbytes : BytesAt (laneOf · false w) s.cb.lane bs :=
      hold.elim (fun hc => hnone.1 hc ▸ bytesAt_nil _ _) fun hc => hle hc w
    have hlane : currentLane s s.cb.wp = laneOf bs.length false w := by
      simp [currentLane, laneOf, (placementKey_eq_le_iff s).1 hkey, hwp]
    exact hlane ▸ hbytes.snoc hlen v
  · obtain ⟨hkey, hold⟩ := eq_of_tagAfterPush htag (by simp)
    have hbytes : BytesAt (laneOf · true w) s.cb.lane bs :=
      hold.elim (fun hc => hnone.1 hc ▸ bytesAt_nil _ _) (hbe w)
    obtain ⟨hbend, hw⟩ := (placementKey_eq_be_iff s w).1 hkey
    have hlane : currentLane s s.cb.wp = laneOf bs.length true w := by rw [currentLane, hbend, hw, hwp]
    exact hlane ▸ hbytes.snoc hlen v

theorem holdsPushed_pushU {bs : List Byte} {s : State} (h : HoldsPushed bs s) (v : Byte) :
    HoldsPushed (if s.cb.wp < Cc then bs ++ [v] else bs) (pushU v s) := by
  split
  · next hroom => exact holdsPushed_pushU_of_room h hroom v
  · next hfull => exact h.of_cb_eq (CodeUnitBuffer.push_of_full hfull ..)

theorem holdsPushed_controlWrite {bs : List Byte} {s : State} (h : HoldsPushed bs s) (v : Byte) :
    HoldsPushed (if v[7] then bs else []) (controlWrite v s) := by
  split
  · next h7 =>
    have hkeep : pulsesInputReset v = false := by simp [pulsesInputReset, h7]
    exact h.congr (by simp [controlWrite_cb, hkeep]) (by simp [controlWrite_cb, hkeep]) (by simp [controlWrite_cb, hkeep])
  · next h7 =>
    have hpulse : pulsesInputReset v = true := by simp [pulsesInputReset, h7]
    exact holdsPushed_nil (by simp [controlWrite_cb, hpulse]) (by simp [controlWrite_cb, hpulse])

/-- Of the operations other than RESET and WRCTRL, only WRCU touches what `HoldsPushed` reads. -/
theorem HoldsPushed.exec_of_ne {bs : List Byte} {i : Instr} {s t : State} (h : HoldsPushed bs s)
    (hx : exec i s = .next t) (hreset : i ≠ .reset) (hctrl : ∀ v, i ≠ .wrctrl v) (hpush : ∀ v, i ≠ .wrcu v) :
    HoldsPushed bs t := by
  obtain ⟨-, -, hcb⟩ := onlyItsOwnOperationsChangeAnElement i s t hx hreset hctrl
  by_cases hne : t.cb = s.cb
  · exact h.of_cb_eq hne
  · obtain ⟨⟨v, hv⟩, -⟩ | ⟨-, -, hlane, hwp, hcfg⟩ := hcb hne
    · exact absurd hv (hpush v)
    · exact h.congr hlane hwp hcfg

theorem holdsPushed_exec {bs : List Byte} {i : Instr} {s t : State} (h : HoldsPushed bs s) (hx : exec i s = .next t) :
    HoldsPushed (pushedSince i s bs) t := by
  cases i with
  | reset => cases hx; exact holdsPushed_nil rfl rfl
  | wrctrl v => cases hx; exact holdsPushed_controlWrite h v
  | wrcu v =>
    cases hd : s.ctl.dir with
    | write =>
      cases (exec_wrcu_write hd v).symm.trans hx
      simpa [pushedSince, hd] using holdsPushed_pushU h v
    | read =>
      cases (exec_wrcu_read hd v).symm.trans hx
      simpa [pushedSince, hd] using h
  | rdctrl | rdbyte | wrbyte | rdcu | rdflags | wrflags | rdrsv | wrrsv | illegal =>
    exact h.exec_of_ne hx (by simp) (by simp) (by simp)

/-- Settles O58: every operation keeps the meaning of NONE (`tagInv_exec`) and moves the pushed bytes as `pushedSince` says
(`holdsPushed_exec`). -/
theorem stepKeepsTagMeaning : Obligations.StepKeepsTagMeaning :=
  ⟨fun _ _ => step_keeps (P := State.TagInv) (fun _ _ h => h) fun _ _ _ h hx => tagInv_exec h hx,
    fun _ _ _ _ h hx => holdsPushed_exec h hx⟩

end Sys2Proof.Machine
end

section
/-! The parameters are fixed for a run (R44); the state after reset (R29 to R37, R40, R43); nothing happens without an
operation (R41). -/

namespace Sys2Proof.Machine

theorem exec_config {i : Instr} {s t : State} (hx : exec i s = .next t) : t.config = s.config := by
  obtain ⟨-, -, rfl⟩ | ⟨-, v, rfl⟩ | ⟨-, rfl⟩ | ⟨v, -, rfl⟩ | ⟨v, -, -, rfl⟩ | ⟨-, -, rfl⟩ |
    ⟨v, -, -, rfl⟩ | ⟨-, -, rfl⟩ :=
    exec_next_cases hx
  exacts [rfl, rfl, rfl, controlWrite_config v s, rfl, rfl, rfl, rfl]

/-- Settles O59: holding a given configuration is kept by every operation (`exec_config`). -/
theorem stepKeepsParameters : Obligations.StepKeepsParameters :=
  fun s _ => step_keeps (P := fun u => u.config = s.config) (fun _ _ h => h)
    (fun _ _ _ h hx => (exec_config hx).trans h) rfl

/-- Settles O10: each clause is a field of `State.reset` as it is written, and FLAGS is computed from them. -/
theorem resetStateHoldsFixedResetValues : Obligations.ResetStateHoldsFixedResetValues :=
  ⟨rfl, rfl, rfl, rfl, by decide, rfl⟩

/-- Settles O11: both buffers are empty at reset, which gives R40, and the tag is NONE. -/
theorem resetStateMeetsInvariants : Obligations.ResetStateMeetsInvariants :=
  ⟨inv_of_empty rfl rfl, iff_of_true rfl rfl, holdsPushed_nil rfl rfl⟩

/-- Settles O55: the equation of `step` on an empty queue. -/
theorem idleStepChangesNothing : Obligations.IdleStepChangesNothing := fun _ h => step_of_pending_nil h

end Sys2Proof.Machine
end

section
/-! A CTRL write is three changes that commute and are idempotent: the field store, the input reset and the output reset
(R73, R97, R98, R101). Written twice with one value it therefore does what one write does (R52). -/

namespace Sys2Proof.Machine

@[simp] theorem storeFields_storeFields (v : Byte) (s : State) : storeFields v (storeFields v s) = storeFields v s := rfl

@[simp] theorem outputReset_outputReset (s : State) : outputReset (outputReset s) = outputReset s := rfl

@[simp] theorem inputReset_inputReset (s : State) : inputReset (inputReset s) = inputReset s := by
  cases hr : s.config.inResetRewindsRp <;> simp [inputReset, ByteBuffer.inputReset, CodeUnitBuffer.inputReset, hr]

/-! The commuting rules move the field store innermost and the output reset outermost, the order `controlWrite` is written in. -/

@[simp] theorem storeFields_inputReset (v : Byte) (s : State) :
    storeFields v (inputReset s) = inputReset (storeFields v s) := rfl

@[simp] theorem storeFields_outputReset (v : Byte) (s : State) :
    storeFields v (outputReset s) = outputReset (storeFields v s) := rfl

@[simp] theorem inputReset_outputReset (s : State) : inputReset (outputReset s) = outputReset (inputReset s) := by
  cases hr : s.config.inResetRewindsRp <;>
    simp [inputReset, outputReset, ByteBuffer.inputReset, CodeUnitBuffer.inputReset, hr]

theorem controlWrite_controlWrite (v : Byte) (s : State) : controlWrite v (controlWrite v s) = controlWrite v s := by
  unfold controlWrite
  cases pulsesInputReset v <;> cases pulsesOutputReset v <;> simp

/-- Settles O19: the three changes commute and are idempotent (`controlWrite_controlWrite`). -/
theorem controlWriteIsIdempotent : Obligations.ControlWriteIsIdempotent :=
  fun v s => ⟨controlWrite v s, exec_wrctrl v s, by rw [exec_wrctrl, controlWrite_controlWrite]⟩

end Sys2Proof.Machine
end

section
/-! Reads without a side effect (R51): the value is computed from fields that answering does not touch, so the second read
answers it again. -/

namespace Sys2Proof.Machine

theorem execAll_pair_of_answer {i : Instr} {v : Byte} {s : State} (hfirst : exec i s = .next (answer v s))
    (hsecond : exec i (answer v s) = .next (answer v (answer v s))) :
    execAll [i, i] s = .next { s with results := s.results ++ [v, v] } := by
  rw [execAll_cons hfirst, execAll_cons hsecond]
  simp [execAll, answer]

/-- Settles O50: each of the reads listed answers one value, in `s` and again in the state that answering left. -/
theorem repeatableReadsChangeNothing : Obligations.RepeatableReadsChangeNothing := by
  intro i s hi
  suffices h : ∃ v, exec i s = .next (answer v s) ∧ exec i (answer v s) = .next (answer v (answer v s)) by
    obtain ⟨v, hfirst, hsecond⟩ := h
    exact ⟨v, hfirst, execAll_pair_of_answer hfirst hsecond⟩
  obtain rfl | rfl | ⟨idx, rfl⟩ | ⟨rfl | rfl, hdir⟩ := hi
  · exact ⟨ctrlByte s, rfl, rfl⟩
  · exact ⟨flagsByte s, rfl, rfl⟩
  · exact ⟨0x00, rfl, rfl⟩
  · exact ⟨0x00, exec_rdbyte_write hdir, exec_rdbyte_write (s := answer 0x00 s) hdir⟩
  · exact ⟨0x00, exec_rdcu_write hdir, exec_rdcu_write (s := answer 0x00 s) hdir⟩

end Sys2Proof.Machine
end

section
/-! The host's sequence: what an operation leaves of it and of the results, what decodes to ILLEGAL, and a sequence of words
run one a step (R55, R57, R123, R132). -/

namespace Sys2Proof.Machine

theorem exec_pending {i : Instr} {s t : State} (hx : exec i s = .next t) : t.pending = s.pending := by
  obtain ⟨-, -, rfl⟩ | ⟨-, v, rfl⟩ | ⟨-, rfl⟩ | ⟨v, -, rfl⟩ | ⟨v, -, -, rfl⟩ | ⟨-, -, rfl⟩ |
    ⟨v, -, -, rfl⟩ | ⟨-, -, rfl⟩ :=
    exec_next_cases hx
  exacts [rfl, rfl, rfl, controlWrite_pending v s, rfl, rfl, rfl, rfl]

theorem exec_results {i : Instr} {s t : State} (hx : exec i s = .next t) :
    t.results = s.results ∨ ∃ v : Byte, t.results = s.results ++ [v] := by
  obtain ⟨-, -, rfl⟩ | ⟨-, v, rfl⟩ | ⟨-, rfl⟩ | ⟨v, -, rfl⟩ | ⟨v, -, -, rfl⟩ | ⟨-, -, rfl⟩ |
    ⟨v, -, -, rfl⟩ | ⟨-, -, rfl⟩ :=
    exec_next_cases hx
  exacts [.inl rfl, .inr ⟨_, rfl⟩, .inl rfl, .inl (controlWrite_results v s), .inl rfl, .inr ⟨_, rfl⟩, .inl rfl,
    .inr ⟨_, rfl⟩]

theorem exists_exec_next {i : Instr} (hi : i ≠ .illegal) (s : State) : ∃ t : State, exec i s = .next t := by
  cases i with
  | illegal => exact absurd rfl hi
  | rdbyte | wrbyte v | rdcu | wrcu v =>
    cases hd : s.ctl.dir <;>
      simp [exec_rdbyte_read, exec_rdbyte_write, exec_wrbyte_read, exec_wrbyte_write, exec_rdcu_read, exec_rdcu_write,
        exec_wrcu_read, exec_wrcu_write, hd]
  | _ => exact ⟨_, rfl⟩

theorem exists_execAll_next {is : List Instr} (his : ∀ i ∈ is, i ≠ .illegal) (s : State) :
    ∃ t : State, execAll is s = .next t ∧ t.pending = s.pending := by
  induction is generalizing s with
  | nil => exact ⟨s, rfl, rfl⟩
  | cons i rest ih =>
    obtain ⟨u, hu⟩ := exists_exec_next (his i List.mem_cons_self) s
    obtain ⟨t, ht, hp⟩ := ih (fun j hj => his j (List.mem_cons_of_mem i hj)) u
    exact ⟨t, (execAll_cons hu rest).trans ht, hp.trans (exec_pending hu)⟩

theorem decodeRead_ne_illegal (m : AddrMap) (idx : Index) : decodeRead m idx ≠ .illegal := by
  unfold decodeRead
  split_ifs <;> simp

theorem decodeWrite_ne_illegal (m : AddrMap) (idx : Index) (v : Byte) : decodeWrite m idx v ≠ .illegal := by
  unfold decodeWrite
  split_ifs <;> simp

theorem decode_ne_illegal (m : AddrMap) {w : AccessWord} (hw : kindOf w ≠ 0b11#2) : decode m w ≠ .illegal := by
  unfold decode
  split_ifs with h0 h1 h2
  · exact decodeRead_ne_illegal m _
  · exact decodeWrite_ne_illegal m _ _
  · simp
  · exact absurd (by bv_omega) hw

/-- With nothing pending before, the first word issued runs as its operation and the others stay issued. -/
theorem step_issueAll_cons (w : AccessWord) (ws : List AccessWord) {s : State} (hs : s.pending = []) :
    step (issueAll (w :: ws) s) = mapNext (issueAll ws) (exec (decode s.config.addrs w) s) := by
  have hp : (issueAll (w :: ws) s).pending = .word w :: ws.map .word := by simp [hs]
  have hrun : step (issueAll (w :: ws) s) = exec (decode s.config.addrs w) { s with pending := ws.map .word } :=
    step_of_pending_cons hp
  rw [hrun, exec_withPending]
  cases hx : exec (decode s.config.addrs w) s with
  | next t => simp [mapNext, issueAll, exec_pending hx, hs]
  | fault r => rfl
  | refused r => rfl

theorem steps_issueAll (ws : List AccessWord) {s : State} (hs : s.pending = []) :
    steps ws.length (issueAll ws s) = execAll (ws.map (decode s.config.addrs)) s := by
  induction ws generalizing s with
  | nil => simp [steps, execAll, issueAll]
  | cons w ws ih =>
    simp only [List.length_cons, List.map_cons, steps, execAll, step_issueAll_cons w ws hs]
    cases hx : exec (decode s.config.addrs w) s with
    | next t => simpa only [mapNext, exec_config hx] using ih ((exec_pending hx).trans hs)
    | fault r => rfl
    | refused r => rfl

theorem step_pending_and_results {s t : State} (h : step s = .next t) :
    t.pending = s.pending.tail ∧ (t.results = s.results ∨ ∃ v : Byte, t.results = s.results ++ [v]) := by
  obtain ⟨hp, rfl⟩ | ⟨w, rest, hp, hx⟩ := step_next_cases h
  · exact ⟨by simp [hp], .inl rfl⟩
  · exact ⟨by simpa [hp] using exec_pending hx, exec_results (s := dropEvent rest s) hx⟩

/-- Settles O60: one step by `step_pending_and_results`, a sequence of words by induction on it (`steps_issueAll`), and its
completion because only KIND = 0b11 decodes to ILLEGAL. -/
theorem stepConsumesOneEvent : Obligations.StepConsumesOneEvent := by
  refine ⟨fun _ _ => step_pending_and_results, fun ws s hs => ⟨steps_issueAll ws hs, fun hkind => ?_⟩⟩
  have hlegal : ∀ i ∈ ws.map (decode s.config.addrs), i ≠ .illegal :=
    List.forall_mem_map.2 fun w hw => decode_ne_illegal _ (hkind w hw)
  obtain ⟨t, ht, hp⟩ := exists_execAll_next hlegal s
  exact ⟨t, (steps_issueAll ws hs).trans ht, hp.trans hs⟩

/-- Settles O56: each event is refused by `perform`, whatever stands behind it in the sequence. -/
theorem accessesOutsideTheInterfaceAreRefused : Obligations.AccessesOutsideTheInterfaceAreRefused := by
  intro s rest bits n idx w
  exact ⟨fun _ h => step_of_pending_cons h, fun h => step_of_pending_cons h, fun h => step_of_pending_cons h,
    fun h => step_of_pending_cons h, fun h => step_of_pending_cons h⟩

end Sys2Proof.Machine
end

section
/-! SUPPORT. What the later sections use of the words, the encoder and the decoder: a word is determined by its fields (R62), and
KIND and IDX select the decoder's answer (R63, R67). Literals are written `n#w`, the form `simp` brings them to. -/

namespace Sys2Proof

/-! ### Words and their fields -/

theorem word_ext_iff {w w' : AccessWord} :
    w = w' ↔ kindOf w = kindOf w' ∧ idxOf w = idxOf w' ∧ dataOf w = dataOf w' := by
  refine ⟨fun h => h ▸ ⟨rfl, rfl, rfl⟩, fun ⟨hk, hi, hd⟩ => ?_⟩
  rw [← packWord_fields w, hk, hi, hd, packWord_fields]

@[simp] theorem kindOf_and (w x : AccessWord) : kindOf (w &&& x) = kindOf w &&& kindOf x := BitVec.extractLsb'_and
@[simp] theorem idxOf_and (w x : AccessWord) : idxOf (w &&& x) = idxOf w &&& idxOf x := BitVec.extractLsb'_and
@[simp] theorem dataOf_and (w x : AccessWord) : dataOf (w &&& x) = dataOf w &&& dataOf x := BitVec.extractLsb'_and

theorem and_clearData (w : AccessWord) : w &&& 0x3FF00#18 = packWord (kindOf w) (idxOf w) 0#8 := by
  have hk : kindOf 0x3FF00#18 = BitVec.allOnes 2 := by decide
  have hi : idxOf 0x3FF00#18 = BitVec.allOnes 8 := by decide
  have hd : dataOf 0x3FF00#18 = 0#8 := by decide
  simp [word_ext_iff, hk, hi, hd, -BitVec.reduceAllOnes]

theorem and_clearOperands (w : AccessWord) : w &&& 0x30000#18 = packWord (kindOf w) 0#8 0#8 := by
  have hk : kindOf 0x30000#18 = BitVec.allOnes 2 := by decide
  have hi : idxOf 0x30000#18 = 0#8 := by decide
  have hd : dataOf 0x30000#18 = 0#8 := by decide
  simp [word_ext_iff, hk, hi, hd, -BitVec.reduceAllOnes]

@[simp] theorem idxOf_encode (m : AddrMap) (i : Instr) : idxOf (encode m i) = i.idx m := idxOf_packWord _ _ _
@[simp] theorem dataOf_encode (m : AddrMap) (i : Instr) : dataOf (encode m i) = i.data := dataOf_packWord _ _ _

/-! ### KIND selects the arm of the decoder -/

theorem decode_cases (m : AddrMap) (w : AccessWord) :
    (kindOf w = 0b00#2 ∧ decode m w = decodeRead m (idxOf w)) ∨
    (kindOf w = 0b01#2 ∧ decode m w = decodeWrite m (idxOf w) (dataOf w)) ∨
    (kindOf w = 0b10#2 ∧ decode m w = .reset) ∨
    (kindOf w = 0b11#2 ∧ decode m w = .illegal) := by
  have hk : kindOf w = 0b00#2 ∨ kindOf w = 0b01#2 ∨ kindOf w = 0b10#2 ∨ kindOf w = 0b11#2 := by bv_omega
  obtain h | h | h | h := hk <;> simp [decode, h]

@[simp] theorem decode_packWord_read (m : AddrMap) (i : Index) (d : Byte) :
    decode m (packWord 0b00#2 i d) = decodeRead m i := by simp [decode]

@[simp] theorem decode_packWord_write (m : AddrMap) (i : Index) (d : Byte) :
    decode m (packWord 0b01#2 i d) = decodeWrite m i d := by simp [decode]

@[simp] theorem decode_packWord_reset (m : AddrMap) (i : Index) (d : Byte) :
    decode m (packWord 0b10#2 i d) = .reset := by simp [decode]

@[simp] theorem decode_packWord_illegal (m : AddrMap) (i : Index) (d : Byte) :
    decode m (packWord 0b11#2 i d) = .illegal := by simp [decode]

/-! ### IDX selects the operation of a read or a write -/

theorem AddrMap.distinct_iff {m : AddrMap} :
    m.distinct = true ↔ m.ctrl ≠ m.byte ∧ m.ctrl ≠ m.cu ∧ m.ctrl ≠ m.flags ∧ m.byte ≠ m.cu ∧ m.byte ≠ m.flags ∧
      m.cu ≠ m.flags := by
  simp [AddrMap.distinct, and_assoc]

theorem AddrMap.reserved_iff {m : AddrMap} {i : Index} :
    m.reserved i = true ↔ i ≠ m.ctrl ∧ i ≠ m.byte ∧ i ≠ m.cu ∧ i ≠ m.flags := by
  simp [AddrMap.reserved, and_assoc]

theorem decodeRead_mapped {m : AddrMap} (h : m.distinct = true) :
    decodeRead m m.ctrl = .rdctrl ∧ decodeRead m m.byte = .rdbyte ∧ decodeRead m m.cu = .rdcu ∧
      decodeRead m m.flags = .rdflags := by
  obtain ⟨hcb, hcu, hcf, hbu, hbf, huf⟩ := AddrMap.distinct_iff.1 h
  simp [decodeRead, hcb.symm, hcu.symm, hcf.symm, hbu.symm, hbf.symm, huf.symm]

theorem decodeWrite_mapped {m : AddrMap} (h : m.distinct = true) (v : Byte) :
    decodeWrite m m.ctrl v = .wrctrl v ∧ decodeWrite m m.byte v = .wrbyte v ∧ decodeWrite m m.cu v = .wrcu v ∧
      decodeWrite m m.flags v = .wrflags v := by
  obtain ⟨hcb, hcu, hcf, hbu, hbf, huf⟩ := AddrMap.distinct_iff.1 h
  simp [decodeWrite, hcb.symm, hcu.symm, hcf.symm, hbu.symm, hbf.symm, huf.symm]

theorem decodeRead_reserved {m : AddrMap} {i : Index} (h : m.reserved i = true) : decodeRead m i = .rdrsv i := by
  obtain ⟨hc, hb, hu, hf⟩ := AddrMap.reserved_iff.1 h
  simp [decodeRead, hc, hb, hu, hf]

theorem decodeWrite_reserved {m : AddrMap} {i : Index} (h : m.reserved i = true) (v : Byte) :
    decodeWrite m i v = .wrrsv i v := by
  obtain ⟨hc, hb, hu, hf⟩ := AddrMap.reserved_iff.1 h
  simp [decodeWrite, hc, hb, hu, hf]

end Sys2Proof
end

section
/-! The decoder against the encoder: it inverts it on well-formed operations, answers no others, and reads no ignored bit
(R62 to R65, R67). -/

namespace Sys2Proof

/-- Settles O2: KIND selects the arm of the decoder, and there a mapped index gives its register's operation because the four
are distinct, and a reserved index the reserved operation. -/
theorem decodeInvertsEncode : Obligations.DecodeInvertsEncode := by
  intro m i hm hi
  obtain ⟨hrc, hrb, hru, hrf⟩ := decodeRead_mapped hm
  obtain ⟨hwc, hwb, hwu, hwf⟩ := decodeWrite_mapped hm i.data
  cases i with
  | reset => exact decode_packWord_reset m _ _
  | illegal => exact decode_packWord_illegal m _ _
  | rdctrl => exact (decode_packWord_read m _ _).trans hrc
  | rdbyte => exact (decode_packWord_read m _ _).trans hrb
  | rdcu => exact (decode_packWord_read m _ _).trans hru
  | rdflags => exact (decode_packWord_read m _ _).trans hrf
  | rdrsv idx => exact (decode_packWord_read m _ _).trans (decodeRead_reserved hi)
  | wrctrl v => exact (decode_packWord_write m _ _).trans hwc
  | wrbyte v => exact (decode_packWord_write m _ _).trans hwb
  | wrcu v => exact (decode_packWord_write m _ _).trans hwu
  | wrflags v => exact (decode_packWord_write m _ _).trans hwf
  | wrrsv idx v => exact (decode_packWord_write m _ _).trans (decodeWrite_reserved hi v)

theorem encode_decodeRead (m : AddrMap) (i : Index) : encode m (decodeRead m i) = packWord 0b00#2 i 0#8 := by
  unfold decodeRead
  split_ifs <;> simp [encode, Instr.kind, Instr.idx, Instr.data, *]

theorem encode_decodeWrite (m : AddrMap) (i : Index) (v : Byte) :
    encode m (decodeWrite m i v) = packWord 0b01#2 i v := by
  unfold decodeWrite
  split_ifs <;> simp [encode, Instr.kind, Instr.idx, Instr.data, *]

/-- Settles O3: by KIND, the encoder gives back KIND with IDX and DATA where they have a meaning, and 0 where they have none. -/
theorem encodeOfDecodeClearsIgnoredBits : Obligations.EncodeOfDecodeClearsIgnoredBits := by
  intro m w
  obtain ⟨hk, hw⟩ | ⟨hk, hw⟩ | ⟨hk, hw⟩ | ⟨hk, hw⟩ := decode_cases m w
  · simp [hw, clearIgnored, encode_decodeRead, and_clearData, hk]
  · simpa [hw, clearIgnored, encode_decodeWrite, hk] using packWord_fields w
  · simp [hw, clearIgnored, encode, Instr.kind, Instr.idx, Instr.data, and_clearOperands, hk]
  · simp [hw, clearIgnored, encode, Instr.kind, Instr.idx, Instr.data, and_clearOperands, hk]

theorem data_eq_zero_of_kind_read {i : Instr} (h : i.kind = 0b00#2) : i.data = 0 := by
  cases i with
  | rdctrl | rdbyte | rdcu | rdflags | rdrsv _ => rfl
  | _ => simp [Instr.kind] at h

theorem eq_reset_of_kind {i : Instr} (h : i.kind = 0b10#2) : i = .reset := by
  cases i with
  | reset => rfl
  | _ => simp [Instr.kind] at h

/-- Settles O4: the read and reset arms of the decoder do not mention the ignored fields, and the encoder writes the operation's
own IDX and DATA. -/
theorem ignoredFieldsHaveNoMeaning : Obligations.IgnoredFieldsHaveNoMeaning := by
  refine fun m => ⟨fun idx d d' => by simp, fun idx idx' d d' => by simp, fun i hi => ?_, fun i hi => ?_⟩
  · rw [dataOf_encode, data_eq_zero_of_kind_read hi]
  · rw [idxOf_encode, dataOf_encode, eq_reset_of_kind hi]
    exact ⟨rfl, rfl⟩

theorem wellFormed_decodeRead (m : AddrMap) (i : Index) : (decodeRead m i).wellFormed m = true := by
  unfold decodeRead
  split_ifs with hc hb hu hf
  case neg => exact AddrMap.reserved_iff.2 ⟨hc, hb, hu, hf⟩
  all_goals rfl

theorem wellFormed_decodeWrite (m : AddrMap) (i : Index) (v : Byte) : (decodeWrite m i v).wellFormed m = true := by
  unfold decodeWrite
  split_ifs with hc hb hu hf
  case neg => exact AddrMap.reserved_iff.2 ⟨hc, hb, hu, hf⟩
  all_goals rfl

/-- Settles O7: a read or a write decodes to a reserved operation only after its index differs from all four mapped ones. -/
theorem decodedOperationsAreWellFormed : Obligations.DecodedOperationsAreWellFormed := by
  intro m w
  obtain ⟨-, hw⟩ | ⟨-, hw⟩ | ⟨-, hw⟩ | ⟨-, hw⟩ := decode_cases m w <;> rw [hw]
  · exact wellFormed_decodeRead m _
  · exact wellFormed_decodeWrite m _ _
  · rfl
  · rfl

end Sys2Proof
end

section
/-! The opcode map (R67): KIND and IDX alone select the operation, and spec/opcode_table.json is a partition of the words. -/

namespace Sys2Proof

theorem mnemonic_decodeWrite (m : AddrMap) (i : Index) (v v' : Byte) :
    (decodeWrite m i v).mnemonic = (decodeWrite m i v').mnemonic := by
  unfold decodeWrite
  split_ifs <;> rfl

theorem mnemonic_decode_congr (m : AddrMap) {w w' : AccessWord} (hk : kindOf w = kindOf w') (hi : idxOf w = idxOf w') :
    (decode m w).mnemonic = (decode m w').mnemonic := by
  unfold decode
  rw [hk, hi]
  split_ifs
  · rfl
  · exact mnemonic_decodeWrite m _ _ _
  · rfl
  · rfl

/-- Settles O6: no arm of the decoder selects by DATA (`mnemonic_decode_congr`), and each clause is its equation for one KIND
and one mapped or reserved index. -/
theorem opcodeMapFollowsIndexMap : Obligations.OpcodeMapFollowsIndexMap := by
  intro m d hm
  simp only [BitVec.ofNat_eq_ofNat, decode_packWord_read, decode_packWord_write, decode_packWord_reset,
    decode_packWord_illegal]
  obtain ⟨hrc, hrb, hru, hrf⟩ := decodeRead_mapped hm
  obtain ⟨hwc, hwb, hwu, hwf⟩ := decodeWrite_mapped hm d
  refine ⟨fun w w' => mnemonic_decode_congr m, hrc, hwc, hrb, hwb, hru, hwu, hrf, hwf, fun i hc hb hu hf => ?_, by simp⟩
  have hi : m.reserved i = true := AddrMap.reserved_iff.2 ⟨hc, hb, hu, hf⟩
  exact ⟨decodeRead_reserved hi, decodeWrite_reserved hi d⟩

/-! ### The rows of the table -/

/-- The row of the words with a given KIND whose IDX under a mask is `idx`: every row of the table looks at all of KIND and at
no bit of DATA. -/
def fieldRow (mnemonic : String) (kind : BitVec 2) (idx idxMask : Index) : OpcodeRow :=
  ⟨mnemonic, packWord kind idx 0, packWord 0b11 idxMask 0⟩

theorem fieldRow_covers_iff {n : String} {k : BitVec 2} {idx idxMask : Index} {w : AccessWord} :
    (fieldRow n k idx idxMask).covers w = true ↔ kindOf w = k ∧ idxOf w &&& idxMask = idx := by
  have hk : kindOf w &&& 3#2 = kindOf w := BitVec.and_allOnes
  simp [OpcodeRow.covers, fieldRow, word_ext_iff, hk]

/-- Two rows whose fixed bits differ where both masks look share no word. -/
theorem not_covers_of_covers {r r' : OpcodeRow} (h : r.bits &&& r'.mask ≠ r'.bits &&& r.mask) {w : AccessWord}
    (hr : r.covers w = true) : ¬ r'.covers w = true := by
  simp only [OpcodeRow.covers, decide_eq_true_eq] at hr ⊢
  intro hr'
  exact h (by rw [← hr, ← hr', BitVec.and_assoc, BitVec.and_assoc, BitVec.and_comm r.mask])

theorem opcodeTable_pairwise : opcodeTable.Pairwise fun r r' => r.bits &&& r'.mask ≠ r'.bits &&& r.mask := by decide

theorem filter_eq_singleton_of_pairwise {α : Type} {p : α → Bool} {l : List α}
    (hl : l.Pairwise fun a b => p a = true → ¬ p b = true) {a : α} (ha : a ∈ l) (hp : p a = true) : l.filter p = [a] := by
  induction l with
  | nil => cases ha
  | cons b l ih =>
    obtain ⟨hb, hl⟩ := List.pairwise_cons.1 hl
    obtain rfl | ha := List.mem_cons.1 ha
    · rw [List.filter_cons_of_pos hp, List.filter_eq_nil_iff.2 fun c hc => hb c hc hp]
    · rw [List.filter_cons_of_neg fun hpb => hb a ha hpb hp, ih hl ha]

/-! ### Some row covers each word -/

/-- An index outside the reference map is at least 4, so its leading bit is one of bits 2 to 7. -/
theorem exists_leadingBit_of_reserved : ∀ i : Index, AddrMap.reference.reserved i = true →
    ∃ j ∈ [2, 3, 4, 5, 6, 7], i &&& 0xFF#8 <<< j = 1#8 <<< j := by decide

theorem reservedRows_mem : ∀ j ∈ [2, 3, 4, 5, 6, 7],
    fieldRow "RDRSV" 0b00 (1#8 <<< j) (0xFF#8 <<< j) ∈ opcodeTable ∧
    fieldRow "WRRSV" 0b01 (1#8 <<< j) (0xFF#8 <<< j) ∈ opcodeTable := by decide

theorem mappedRows_mem : ∀ i ∈ [0#8, 1#8, 2#8, 3#8],
    fieldRow (decodeRead .reference i).mnemonic 0b00 i 0xFF ∈ opcodeTable ∧
    fieldRow (decodeWrite .reference i 0).mnemonic 0b01 i 0xFF ∈ opcodeTable := by decide

theorem exists_rows_of_index (i : Index) : ∃ idx idxMask : Index, i &&& idxMask = idx ∧
    fieldRow (decodeRead .reference i).mnemonic 0b00 idx idxMask ∈ opcodeTable ∧
    fieldRow (decodeWrite .reference i 0).mnemonic 0b01 idx idxMask ∈ opcodeTable := by
  by_cases hi : AddrMap.reference.reserved i = true
  · obtain ⟨j, hj, h⟩ := exists_leadingBit_of_reserved i hi
    rw [decodeRead_reserved hi, decodeWrite_reserved hi]
    exact ⟨_, _, h, reservedRows_mem j hj⟩
  · have hmem : i ∈ [0#8, 1#8, 2#8, 3#8] := by
      simpa [AddrMap.reserved_iff, AddrMap.reference, Classical.or_iff_not_imp_left] using hi
    exact ⟨i, 0xFF, BitVec.and_allOnes, mappedRows_mem i hmem⟩

theorem exists_row_covers (w : AccessWord) :
    ∃ r ∈ opcodeTable, r.covers w = true ∧ r.mnemonic = (decode .reference w).mnemonic := by
  obtain ⟨idx, idxMask, hi, hread, hwrite⟩ := exists_rows_of_index (idxOf w)
  obtain ⟨hk, hw⟩ | ⟨hk, hw⟩ | ⟨hk, hw⟩ | ⟨hk, hw⟩ := decode_cases .reference w <;> rw [hw]
  · exact ⟨_, hread, fieldRow_covers_iff.2 ⟨hk, hi⟩, rfl⟩
  · exact ⟨_, hwrite, fieldRow_covers_iff.2 ⟨hk, hi⟩, mnemonic_decodeWrite _ _ _ _⟩
  · exact ⟨fieldRow "RESET" 0b10 0 0, by decide, fieldRow_covers_iff.2 ⟨hk, BitVec.and_zero⟩, rfl⟩
  · exact ⟨fieldRow "ILLEGAL" 0b11 0 0, by decide, fieldRow_covers_iff.2 ⟨hk, BitVec.and_zero⟩, rfl⟩

/-- Settles O5: a row with the decoded mnemonic covers the word (`exists_row_covers`), and no two rows share a word, because
each two differ in a bit that both fix (`opcodeTable_pairwise`). -/
theorem everyWordIsExactlyOneTableRow : Obligations.EveryWordIsExactlyOneTableRow := by
  intro w
  obtain ⟨r, hr, hcov, hmn⟩ := exists_row_covers w
  have hdisj : opcodeTable.Pairwise fun r r' => r.covers w = true → ¬ r'.covers w = true :=
    opcodeTable_pairwise.imp fun h => not_covers_of_covers h
  rw [filter_eq_singleton_of_pairwise hdisj hr hcov, List.map_singleton, hmn]

end Sys2Proof
end

section
/-! The pseudo-instructions (R71): each is one access, and the four control forms are CTRL writes of the fields of F with chosen
values in bits 7 and 0, which select the pulses (R73). -/

namespace Sys2Proof.Machine

/-- The stored fields are bits 6:1 of the value (30_encoding R65). -/
theorem ctlOfByte_congr {v f : Byte} (h : v &&& 0x7E#8 = f &&& 0x7E#8) : ctlOfByte v = ctlOfByte f := by
  have hbit (j : Nat) (hj : j < 8) (hm : (0x7E#8)[j] = true) : v[j] = f[j] := by
    simpa [hm] using congrArg (·[j]) h
  have hwsel : v.extractLsb' 5 2 = f.extractLsb' 5 2 := by
    have hm : (0x7E#8).extractLsb' 5 2 = BitVec.allOnes 2 := by decide
    have hcut := congrArg (BitVec.extractLsb' 5 2) h
    rwa [BitVec.extractLsb'_and, BitVec.extractLsb'_and, hm, BitVec.and_allOnes, BitVec.and_allOnes] at hcut
  unfold ctlOfByte
  rw [hbit 1 (by decide) rfl, hbit 2 (by decide) rfl, hbit 3 (by decide) rfl, hbit 4 (by decide) rfl, hwsel]

/-- A CTRL write of the fields of `f` with bits 7 and 0 from `p` stores the fields of `f` and pulses as `p` says. -/
theorem controlWrite_fieldsOr (f : Byte) {p : Byte} (hp : p &&& 0x7E#8 = 0#8) (s : State) :
    controlWrite ((f &&& 0x7E#8) ||| p) s =
      (if pulsesOutputReset p then outputReset else id)
        ((if pulsesInputReset p then inputReset else id) (storeFields f s)) := by
  have hfields : ((f &&& 0x7E#8) ||| p) &&& 0x7E#8 = f &&& 0x7E#8 := by
    ext j hj
    have hpj : (p[j] && (0x7E#8)[j]) = false := by simpa using congrArg (·[j]) hp
    simp [Bool.and_or_distrib_right, hpj]
  have hctl : ctlOfByte ((f &&& 0x7E#8) ||| p) = ctlOfByte f := ctlOfByte_congr hfields
  have hin : pulsesInputReset ((f &&& 0x7E#8) ||| p) = pulsesInputReset p := by simp [pulsesInputReset]
  have hout : pulsesOutputReset ((f &&& 0x7E#8) ||| p) = pulsesOutputReset p := by simp [pulsesOutputReset]
  rw [controlWrite, storeFields, hctl, hin, hout]
  cases pulsesInputReset p <;> cases pulsesOutputReset p <;> rfl

/-- Settles O8: each expansion packs the index of its register, which decodes to that register's operation; the control forms
are `controlWrite_fieldsOr` with 0x81, 0x01, 0x80 and 0x00. -/
theorem pseudoInstructionsMeanTheirEffect : Obligations.PseudoInstructionsMeanTheirEffect := by
  intro m s f v hm
  obtain ⟨-, hrb, hru, hrf⟩ := decodeRead_mapped hm
  obtain ⟨-, hwb, hwu, -⟩ := decodeWrite_mapped hm v
  have hctl (p : Byte) (hp : p &&& 0x7E#8 = 0#8) :
      exec (decode m (packWord 0b01#2 m.ctrl ((f &&& 0x7E#8) ||| p))) s =
        .next ((if pulsesOutputReset p then outputReset else id)
          ((if pulsesInputReset p then inputReset else id) (storeFields f s))) := by
    rw [decode_packWord_write, (decodeWrite_mapped hm _).1, exec_wrctrl, controlWrite_fieldsOr f hp]
  refine ⟨(decode_packWord_write m _ _).trans hwb, (decode_packWord_read m _ _).trans hrb,
    (decode_packWord_write m _ _).trans hwu, (decode_packWord_read m _ _).trans hru,
    (decode_packWord_read m _ _).trans hrf, hctl 0x81#8 rfl, hctl 0x01#8 rfl, hctl 0x80#8 rfl, ?_⟩
  have hall := hctl 0x00#8 rfl
  rwa [BitVec.or_zero] at hall

end Sys2Proof.Machine
end

section
/-! What CTRL reads as (R72): the fields of the control byte are the stored ones (`ctlOfByte_ctrlByte`), bits 7 and 0 the live
status. -/

namespace Sys2Proof.Machine

theorem dirOfBit_eq_read_iff (b : Bool) : dirOfBit b = .read ↔ b = true := by cases b <;> simp [dirOfBit]

theorem ctrlByte_bit1 (s : State) : (ctrlByte s)[1] = s.ctl.eren := congrArg CtrlFields.eren (ctlOfByte_ctrlByte s)
theorem ctrlByte_bit2 (s : State) : (ctrlByte s)[2] = s.ctl.rcen := congrArg CtrlFields.rcen (ctlOfByte_ctrlByte s)
theorem ctrlByte_bit3 (s : State) : (ctrlByte s)[3] = s.ctl.bend := congrArg CtrlFields.bend (ctlOfByte_ctrlByte s)
theorem ctrlByte_wsel (s : State) : (ctrlByte s).extractLsb' 5 2 = s.ctl.wsel :=
  congrArg CtrlFields.wsel (ctlOfByte_ctrlByte s)

theorem ctrlByte_bit4 (s : State) : (ctrlByte s)[4] = decide (s.ctl.dir = .read) := by
  have hdir : dirOfBit (ctrlByte s)[4] = s.ctl.dir := congrArg CtrlFields.dir (ctlOfByte_ctrlByte s)
  rw [← hdir, Bool.eq_iff_iff, decide_eq_true_iff, dirOfBit_eq_read_iff]

/-- Settles O13: the value is the control byte, and each clause says what one of its bits is. -/
theorem readControlAnswersFieldsAndStatus : Obligations.ReadControlAnswersFieldsAndStatus :=
  fun s => ⟨ctrlByte s, exec_rdctrl s, ctrlByte_bit7 s, ctrlByte_wsel s, ctrlByte_bit4 s, ctrlByte_bit3 s, ctrlByte_bit2 s,
    ctrlByte_bit1 s, ctrlByte_bit0 s⟩

end Sys2Proof.Machine
end

section
/-! A CTRL write as one record (R73), and the DIR it leaves for the next access (R75). -/

namespace Sys2Proof.Machine

theorem State.eq_of_fields {s t : State} (hctl : s.ctl = t.ctl) (hist : s.ist = t.ist) (host : s.ost = t.ost)
    (hbb : s.bb = t.bb) (hcb : s.cb = t.cb) (hconfig : s.config = t.config) (hpending : s.pending = t.pending)
    (hresults : s.results = t.results) (hdraws : s.draws = t.draws) : s = t := by
  cases s; cases t
  exact (State.mk.injEq ..).mpr ⟨hctl, hist, host, hbb, hcb, hconfig, hpending, hresults, hdraws⟩

/-- Settles O14: the laws of `controlWrite` give each field by its pulse, and a pulse is the negation of its bit. -/
theorem writeControlStoresFieldsAndPulsesResets : Obligations.WriteControlStoresFieldsAndPulsesResets := by
  intro v s
  rw [exec_wrctrl]
  have hin : pulsesInputReset v = !v[7] := rfl
  have hout : pulsesOutputReset v = !v[0] := rfl
  refine congrArg Host.Outcome.next (State.eq_of_fields (controlWrite_ctl v s) ?_ ?_ ?_ ?_ (controlWrite_config v s)
    (controlWrite_pending v s) (controlWrite_results v s) (controlWrite_draws v s))
  · rw [controlWrite_ist, hin]; cases v[7] <;> rfl
  · rw [controlWrite_ost, hout]; cases v[0] <;> rfl
  · rw [controlWrite_bb, hin, hout]; cases v[7] <;> rfl
  · rw [controlWrite_cb, hin, hout]; cases v[7] <;> rfl

theorem controlWrite_dir (v : Byte) (s : State) : (controlWrite v s).ctl.dir = dirOfBit v[4] :=
  congrArg CtrlFields.dir (controlWrite_ctl v s)

/-- Settles O22: the state after the write holds the DIR of bit 4, and a data access is routed by the DIR it finds. -/
theorem controlWriteGovernsNextAccess : Obligations.ControlWriteGovernsNextAccess := by
  intro v b s
  refine ⟨controlWrite v s, exec_wrctrl v s, fun h4 => ?_, fun h4 => ?_⟩
  · have hdir : (controlWrite v s).ctl.dir = .write := by rw [controlWrite_dir, h4]; rfl
    exact ⟨exec_wrbyte_write hdir b, exec_wrcu_write hdir b⟩
  · have hdir : (controlWrite v s).ctl.dir = .read := by rw [controlWrite_dir, h4]; rfl
    exact ⟨exec_rdbyte_read hdir, exec_rdcu_read hdir⟩

end Sys2Proof.Machine
end

section
/-! EREN and RCEN (R74): every effect commutes with changing them or overwrites them, and only bits 1 and 2 of CTRL show them. -/

namespace Sys2Proof.Machine

section
variable (e r : Bool) (v : Byte) (s : State)

@[simp] theorem withChecks_dir : (withChecks e r s).ctl.dir = s.ctl.dir := rfl
@[simp] theorem withChecks_bb : (withChecks e r s).bb = s.bb := rfl
@[simp] theorem flagsByte_withChecks : flagsByte (withChecks e r s) = flagsByte s := rfl
@[simp] theorem frontU_withChecks : frontU (withChecks e r s) = frontU s := rfl

@[simp] theorem answer_withChecks : answer v (withChecks e r s) = withChecks e r (answer v s) := rfl
@[simp] theorem pushB_withChecks : pushB v (withChecks e r s) = withChecks e r (pushB v s) := rfl
@[simp] theorem popB_withChecks : popB (withChecks e r s) = withChecks e r (popB s) := rfl
@[simp] theorem pushU_withChecks : pushU v (withChecks e r s) = withChecks e r (pushU v s) := rfl
@[simp] theorem popU_withChecks : popU (withChecks e r s) = withChecks e r (popU s) := rfl

@[simp] theorem blockReset_withChecks : blockReset (withChecks e r s) = blockReset s := rfl
@[simp] theorem storeFields_withChecks : storeFields v (withChecks e r s) = storeFields v s := rfl
@[simp] theorem controlWrite_withChecks : controlWrite v (withChecks e r s) = controlWrite v s := by simp [controlWrite]

end

/-- An operation that neither shows nor overwrites EREN and RCEN does the same whatever they are, since only DIR routes it. -/
theorem exec_withChecks (e r : Bool) (s : State) {i : Instr} (hrd : i ≠ .rdctrl) (hreset : i ≠ .reset)
    (hwr : ∀ v : Byte, i ≠ .wrctrl v) :
    exec i (withChecks e r s) = mapNext (withChecks e r) (exec i s) := by
  cases i with
  | rdctrl => exact absurd rfl hrd
  | reset => exact absurd rfl hreset
  | wrctrl v => exact absurd rfl (hwr v)
  | rdbyte => cases hd : s.ctl.dir <;> simp [exec_rdbyte_read, exec_rdbyte_write, hd, mapNext]
  | wrbyte v => cases hd : s.ctl.dir <;> simp [exec_wrbyte_read, exec_wrbyte_write, hd, mapNext]
  | rdcu => cases hd : s.ctl.dir <;> simp [exec_rdcu_read, exec_rdcu_write, hd, mapNext]
  | wrcu v => cases hd : s.ctl.dir <;> simp [exec_wrcu_read, exec_wrcu_write, hd, mapNext]
  | rdflags | wrflags v | rdrsv idx | wrrsv idx v | illegal => simp [mapNext]

theorem getLsbD_bitAt_of_ne {n k : Nat} (h : k ≠ n) (b : Bool) : (bitAt n b).getLsbD k = false := by
  by_cases hk : k < n
  · simp [bitAt, hk]
  · have hpos : k - n ≠ 0 := by omega
    simp [bitAt, BitVec.getLsbD_ofBool, hpos]

theorem ctrlByte_withChecks_getLsbD (e r : Bool) (s : State) {k : Nat} (h1 : k ≠ 1) (h2 : k ≠ 2) :
    (ctrlByte (withChecks e r s)).getLsbD k = (ctrlByte s).getLsbD k := by
  simp [ctrlByte, fieldsByte, withChecks, getLsbD_bitAt_of_ne h1, getLsbD_bitAt_of_ne h2]

/-- Settles O21: `exec_withChecks` for the operations that do not depend on the two bits, the overwriting effects for RESET and
WRCTRL, and the bits of the control byte for RDCTRL. -/
theorem checkEnablesHaveNoEffect : Obligations.CheckEnablesHaveNoEffect := by
  intro s e r
  refine ⟨fun i hrd hreset hwr => exec_withChecks e r s hrd hreset hwr, ?_, fun v => ?_, ?_⟩
  · rw [exec_reset, exec_reset, blockReset_withChecks]
  · rw [exec_wrctrl, exec_wrctrl, controlWrite_withChecks]
  · exact ⟨ctrlByte (withChecks e r s), exec_rdctrl _, ctrlByte_bit1 _, ctrlByte_bit2 _,
      fun k => ctrlByte_withChecks_getLsbD e r s⟩

end Sys2Proof.Machine
end

section
/-! One access to the byte buffer (R76 to R81): where a push and a pop leave the pointers and the status, the whole state after
each, and the accesses that the direction turns away. -/

namespace Sys2Proof.Machine

/-! ### Pointers and states after a push and a pop -/

theorem ByteBuffer.push_wp (b : ByteBuffer) (v : Byte) : (b.push v).wp = if b.wp < Cb then b.wp + 1 else b.wp := by
  unfold ByteBuffer.push
  split <;> rfl

theorem ByteBuffer.pop_rp (b : ByteBuffer) : b.pop.rp = if b.rp < b.wp then b.rp + 1 else b.rp := by
  unfold ByteBuffer.pop
  split <;> rfl

theorem pushB_of_room {s : State} (h : s.bb.wp < Cb) (v : Byte) :
    pushB v s =
      { s with bb := { s.bb with data := s.bb.data.set s.bb.wp v h, wp := s.bb.wp + 1 }, ist := false } := by
  rw [pushB, ByteBuffer.push_of_room h, setIfInBounds_of_lt _ h]

theorem pushB_of_full {s : State} (h : ¬ s.bb.wp < Cb) (v : Byte) : pushB v s = { s with ist := false } := by
  rw [pushB, ByteBuffer.push_of_full h]

theorem popB_of_stored {s : State} (h : s.bb.rp < s.bb.wp) :
    popB s = { s with bb := { s.bb with rp := s.bb.rp + 1 }, ost := false } := by
  rw [popB, ByteBuffer.pop_of_stored h, (bempty_eq_false_iff s).2 h]
  rfl

theorem popB_of_empty {s : State} (h : ¬ s.bb.rp < s.bb.wp) :
    popB s = { s with ost := if s.config.emptyPopClearsOst then false else s.ost } := by
  rw [popB, ByteBuffer.pop_of_empty h, (bempty_eq_true_iff s).2 h, Bool.not_true, ostAfterPop_empty]

/-! ### Pushes and pops in the buffer's direction -/

/-- Settles O23: a push has room (`pushB_of_room`) or not (`pushB_of_full`), and the flags follow the new write pointer
(`ByteBuffer.push_wp`). -/
theorem pushByteStoresOrDrops : Obligations.PushByteStoresOrDrops := by
  intro v s hd
  rw [exec_wrbyte_write hd]
  refine ⟨fun h => by rw [pushB_of_room h], fun h => by rw [pushB_of_full h], fun hwp => ⟨pushB v s, rfl, ?_, ?_⟩⟩
  · rw [bfull_eq_true_iff, pushB_bb, ByteBuffer.push_wp]
    split <;> omega
  · rw [bempty_eq_true_iff, pushB_bb, ByteBuffer.push_rp, ByteBuffer.push_wp]

/-- Settles O25: a pop finds a stored byte (`popB_of_stored`) or none (`popB_of_empty`), and BEMPTY follows the new read pointer
(`ByteBuffer.pop_rp`). -/
theorem popByteReturnsOldestOrSentinel : Obligations.PopByteReturnsOldestOrSentinel := by
  intro s hd
  rw [exec_rdbyte_read hd]
  refine ⟨fun hcap h => ?_, fun h => ?_, ⟨_, rfl, ?_⟩⟩
  · rw [popB_of_stored h, ByteBuffer.front_of_stored h, cellAt_of_lt _ hcap]
    rfl
  · rw [popB_of_empty h, ByteBuffer.front_of_empty h]
    rfl
  · rw [bempty_eq_true_iff, answer_bb, popB_bb, ByteBuffer.pop_wp, ByteBuffer.pop_rp]

/-! ### Accesses the direction turns away -/

/-- Settles O24: the arms of WRBYTE and WRCU for DIR = Read. -/
theorem wrongDirectionWritesAreIgnored : Obligations.WrongDirectionWritesAreIgnored :=
  fun v _ hd => ⟨exec_wrbyte_read hd v, exec_wrcu_read hd v⟩

/-- Settles O26: the arms of RDBYTE and RDCU for DIR = Write. -/
theorem wrongDirectionReadsAnswerZero : Obligations.WrongDirectionReadsAnswerZero :=
  fun _ hd => ⟨exec_rdbyte_write hd, exec_rdcu_write hd⟩

/-! ### Pushes a claim about the chip may rest on -/

theorem chipSupported_wrbyte_iff (v : Byte) (s : State) :
    chipSupported (.wrbyte v) s = true ↔ s.ctl.dir = .write ∧ s.bb.wp < Cb := by
  simp [chipSupported]

theorem chipSupported_wrcu_iff (v : Byte) (s : State) :
    chipSupported (.wrcu v) s = true ↔ s.ctl.dir = .write ∧ s.cb.wp < Cc := by
  simp [chipSupported]

/-- Settles O53: a supported push goes in the direction of its buffer and has room, so it is stored, and the cell or lane of the
write pointer exists. -/
theorem supportedPushesAreStored : Obligations.SupportedPushesAreStored := by
  refine fun v s => ⟨fun h => ?_, fun h => ?_⟩
  · obtain ⟨hd, hroom⟩ := (chipSupported_wrbyte_iff v s).1 h
    refine ⟨pushB v s, exec_wrbyte_write hd v, ?_⟩
    rw [pushB_bb, ByteBuffer.push_of_room hroom]
    exact ⟨rfl, cellAt_set_same _ hroom v⟩
  · obtain ⟨hd, hroom⟩ := (chipSupported_wrcu_iff v s).1 h
    refine ⟨pushU v s, exec_wrcu_write hd v, ?_⟩
    rw [pushU_cb, CodeUnitBuffer.push_of_room hroom]
    exact ⟨rfl, fun _ => cellAt_set_same _ (currentLane_lt s hroom) v⟩

end Sys2Proof.Machine
end

section
/-! A full buffer stays full and an empty one empty, however often it is pushed or popped; only the resets make room (R83). -/

namespace Sys2Proof.Machine

theorem execAll_wrbyte_of_full (vs : List Byte) {s : State} (hd : s.ctl.dir = .write) (hfull : ¬ s.bb.wp < Cb) :
    ∃ t : State, execAll (vs.map .wrbyte) s = .next t ∧ t.bb = s.bb := by
  induction vs generalizing s with
  | nil => exact ⟨s, rfl, rfl⟩
  | cons v vs ih =>
    have hbb : (pushB v s).bb = s.bb := ByteBuffer.push_of_full hfull v
    obtain ⟨t, ht, htbb⟩ := ih (s := pushB v s) hd (by rwa [hbb])
    exact ⟨t, (execAll_cons (exec_wrbyte_write hd v) _).trans ht, htbb.trans hbb⟩

/-- Settles O27: each push onto the full buffer is dropped (`execAll_wrbyte_of_full`). -/
theorem fullByteBufferDropsEveryPush : Obligations.FullByteBufferDropsEveryPush := by
  intro vs s hd hwp
  obtain ⟨t, ht, hbb⟩ := execAll_wrbyte_of_full vs hd hwp.not_lt
  exact ⟨t, ht, hbb, (bfull_eq_true_iff t).2 (by rw [hbb, hwp])⟩

theorem execAll_rdbyte_of_empty (n : Nat) {s : State} (hd : s.ctl.dir = .read) (hempty : ¬ s.bb.rp < s.bb.wp) :
    ∃ t : State, execAll (List.replicate n .rdbyte) s = .next t ∧
      t.results = s.results ++ List.replicate n 0x00 ∧ t.bb = s.bb := by
  induction n generalizing s with
  | zero => exact ⟨s, rfl, (List.append_nil _).symm, rfl⟩
  | succ n ih =>
    have hpop : exec .rdbyte s = .next (answer 0x00 (popB s)) := by
      rw [exec_rdbyte_read hd, ByteBuffer.front_of_empty hempty]
    have hbb : (popB s).bb = s.bb := ByteBuffer.pop_of_empty hempty
    obtain ⟨t, ht, hres, htbb⟩ := ih (s := answer 0x00 (popB s)) hd (by rwa [answer_bb, hbb])
    refine ⟨t, (execAll_cons hpop _).trans ht, ?_, htbb.trans hbb⟩
    rw [hres, answer_results, popB_results, List.append_assoc, List.replicate_succ, List.singleton_append]

/-- Settles O28: each pop of the empty buffer answers the sentinel and moves no pointer (`execAll_rdbyte_of_empty`). -/
theorem emptyByteBufferAnswersZeroForever : Obligations.EmptyByteBufferAnswersZeroForever := by
  intro n s hd hwp
  obtain ⟨t, ht, hres, hbb⟩ := execAll_rdbyte_of_empty n hd hwp.not_gt
  exact ⟨t, ht, hres, hbb, (bempty_eq_true_iff t).2 (by rw [hbb]; exact hwp.not_gt)⟩

/-! ### Capacity -/

/-- An operation pulses an input reset: RESET, or a CTRL write with bit 7 = 0 (40_control_register R73, 70_reset_and_hazards
R120). -/
def ResetsInput (i : Instr) : Prop := i = .reset ∨ ∃ v : Byte, i = .wrctrl v ∧ v[7] = false

theorem resetsInput_or_full_of_exec {i : Instr} {s t : State} (hx : exec i s = .next t) :
    ResetsInput i ∨ (s.bb.wp = Cb → t.bb.wp = Cb) ∧ (s.cb.wp = Cc → t.cb.wp = Cc) := by
  obtain ⟨-, -, rfl⟩ | ⟨-, v, rfl⟩ | ⟨rfl, -⟩ | ⟨v, rfl, rfl⟩ | ⟨v, -, -, rfl⟩ | ⟨-, -, rfl⟩ |
    ⟨v, -, -, rfl⟩ | ⟨-, -, rfl⟩ := exec_next_cases hx
  · exact .inr ⟨id, id⟩
  · exact .inr ⟨id, id⟩
  · exact .inl (.inl rfl)
  · cases h7 : v[7] with
    | false => exact .inl (.inr ⟨v, rfl, h7⟩)
    | true => exact .inr (by simp [controlWrite_bb, controlWrite_cb, pulsesInputReset, h7])
  · exact .inr ⟨fun h => by rw [pushB_bb, ByteBuffer.push_of_full h.not_lt, h], id⟩
  · exact .inr ⟨(ByteBuffer.pop_wp s.bb).trans, id⟩
  · exact .inr ⟨id, fun h => by rw [pushU_cb, CodeUnitBuffer.push_of_full h.not_lt, h]⟩
  · exact .inr ⟨id, (CodeUnitBuffer.pop_wp s.cb).trans⟩

/-- Settles O29: any other operation leaves a full buffer full (`resetsInput_or_full_of_exec`). -/
theorem onlyResetsFreeCapacity : Obligations.OnlyResetsFreeCapacity := by
  intro i s t hx
  simp only [bfull_eq_true_iff, bfull_eq_false_iff, ufull_eq_true_iff, ufull_eq_false_iff]
  obtain hi | ⟨hb, hu⟩ := resetsInput_or_full_of_exec hx
  · exact ⟨fun _ _ => hi, fun _ _ => hi⟩
  · exact ⟨fun hs ht => absurd (hb hs) ht, fun hs ht => absurd (hu hs) ht⟩

end Sys2Proof.Machine
end

section
/-! The byte buffer as a queue (R82, R84): a push appends to the bytes not yet popped, a pop takes the first of them, and an
output reset makes every stored byte one of them again. -/

namespace Sys2Proof.Machine

/-- The bytes a buffer holds that are not yet popped, oldest first (41_byte_buffer R82). -/
def ByteBuffer.unread (b : ByteBuffer) : List Byte := (b.data.toList.take b.wp).drop b.rp

namespace ByteBuffer

theorem unread_of_empty {b : ByteBuffer} (h : ¬ b.rp < b.wp) : b.unread = [] :=
  List.drop_eq_nil_of_le ((List.length_take_le ..).trans (Nat.le_of_not_lt h))

theorem unread_push {b : ByteBuffer} (hrp : b.rp ≤ b.wp) (hroom : b.wp < Cb) (v : Byte) :
    (b.push v).unread = b.unread ++ [v] := by
  have hlen : b.wp < b.data.toList.length := by simpa using hroom
  have htake : ((b.data.set b.wp v hroom).toList).take (b.wp + 1) = b.data.toList.take b.wp ++ [v] := by
    rw [Vector.toList_set, List.take_succ_eq_append_getElem (by simpa using hlen), List.take_set_of_le le_rfl,
      List.getElem_set_self]
  rw [push_of_room hroom, setIfInBounds_of_lt _ hroom, unread, htake, List.drop_append_of_le_length, unread]
  rwa [List.length_take_of_le hlen.le]

theorem unread_of_stored {b : ByteBuffer} (h : b.rp < b.wp) (hwp : b.wp ≤ Cb) :
    b.unread = b.front :: b.pop.unread := by
  have hcap : b.rp < Cb := h.trans_le hwp
  have hlen : b.rp < (b.data.toList.take b.wp).length := by simpa using ⟨h, hcap⟩
  rw [unread, List.drop_eq_getElem_cons hlen, front_of_stored h, cellAt_of_lt _ hcap, pop_of_stored h, unread]
  simp

end ByteBuffer

/-! ### Pushes, pops and direction changes in any order -/

/-- The pseudo-instruction `cfg` (30_encoding R71) stores the fields and pulses nothing. -/
theorem exec_wrctrl_cfg (f : Byte) (s : State) : exec (.wrctrl ((f &&& 0x7E) ||| 0x81)) s = .next (storeFields f s) := by
  rw [exec_wrctrl]
  exact congrArg _ (controlWrite_fieldsOr f (p := 0x81) rfl s)

theorem legalOps_push_iff {d : Direction} {n : Nat} {v : Byte} {ops : List BufOp} :
    legalOps d n (.push v :: ops) = true ↔ d = .write ∧ legalOps d (n + 1) ops = true := by
  simp [legalOps]

theorem legalOps_pop_iff {d : Direction} {n : Nat} {ops : List BufOp} :
    legalOps d n (.pop :: ops) = true ↔ 0 < n ∧ d = .read ∧ legalOps d (n - 1) ops = true := by
  cases n <;> simp [legalOps]

/-- From any buffer, legal operations answer the bytes not yet popped and then the bytes pushed, in order. -/
theorem execAll_onByte {ops : List BufOp} {s : State} (hrp : s.bb.rp ≤ s.bb.wp)
    (hroom : s.bb.wp + (pushedBytes ops).length ≤ Cb)
    (hlegal : legalOps s.ctl.dir (s.bb.wp - s.bb.rp) ops = true) :
    ∃ t : State, execAll (ops.map BufOp.onByte) s = .next t ∧
      t.results = s.results ++ (s.bb.unread ++ pushedBytes ops).take (popCount ops) := by
  induction ops generalizing s with
  | nil => exact ⟨s, rfl, by simp [popCount]⟩
  | cons op ops ih =>
    cases op with
    | cfg f =>
      obtain ⟨t, ht, hres⟩ := ih (s := storeFields f s) hrp hroom hlegal
      exact ⟨t, (execAll_cons (exec_wrctrl_cfg f s) _).trans ht, hres⟩
    | push v =>
      obtain ⟨hd, hrest⟩ := legalOps_push_iff.1 hlegal
      simp only [pushedBytes, List.length_cons] at hroom
      have hfree : s.bb.wp < Cb := by omega
      have hwp : (pushB v s).bb.wp = s.bb.wp + 1 := by rw [pushB_bb, ByteBuffer.push_wp, if_pos hfree]
      have hrp' : (pushB v s).bb.rp = s.bb.rp := ByteBuffer.push_rp s.bb v
      obtain ⟨t, ht, hres⟩ := ih (s := pushB v s) (by omega) (by omega)
        (by rwa [hwp, hrp', Nat.succ_sub hrp])
      refine ⟨t, (execAll_cons (exec_wrbyte_write hd v) _).trans ht, ?_⟩
      rw [hres, pushB_results, pushB_bb, ByteBuffer.unread_push hrp hfree, List.append_assoc]
      rfl
    | pop =>
      obtain ⟨hpos, hd, hrest⟩ := legalOps_pop_iff.1 hlegal
      have hstored : s.bb.rp < s.bb.wp := by omega
      have hwp : (popB s).bb.wp = s.bb.wp := ByteBuffer.pop_wp s.bb
      have hrp' : (popB s).bb.rp = s.bb.rp + 1 := by rw [popB_bb, ByteBuffer.pop_rp, if_pos hstored]
      obtain ⟨t, ht, hres⟩ := ih (s := answer s.bb.front (popB s)) (by rw [answer_bb]; omega)
        (by rwa [answer_bb, hwp]) (by rwa [answer_bb, hwp, hrp', Nat.sub_add_eq])
      refine ⟨t, (execAll_cons (exec_rdbyte_read hd) _).trans ht, ?_⟩
      have hcap : s.bb.wp ≤ Cb := (Nat.le_add_right ..).trans hroom
      rw [hres, ByteBuffer.unread_of_stored hstored hcap]
      simp [popCount, pushedBytes]

/-- Settles O30: from empty pointers nothing is unread, so the pops answer the first bytes pushed (`execAll_onByte`). -/
theorem byteBufferIsFifo : Obligations.ByteBufferIsFifo := by
  intro s ops hwp hrp hlen hlegal
  have hempty : s.bb.unread = [] := ByteBuffer.unread_of_empty (by omega)
  obtain ⟨t, ht, hres⟩ := execAll_onByte (s := s) (ops := ops) (by omega) (by omega) (by rwa [hwp, hrp])
  exact ⟨t, ht, by rwa [hempty] at hres⟩

/-! ### Replay -/

/-- As many pops as there are bytes not yet popped answer these bytes. -/
theorem execAll_rdbyte_unread {n : Nat} {s : State} (hd : s.ctl.dir = .read) (hwp : s.bb.wp ≤ Cb)
    (hn : s.bb.rp + n = s.bb.wp) :
    ∃ t : State, execAll (List.replicate n .rdbyte) s = .next t ∧ t.results = s.results ++ s.bb.unread ∧
      t.bb.data = s.bb.data ∧ t.bb.wp = s.bb.wp := by
  induction n generalizing s with
  | zero =>
    have hempty : s.bb.unread = [] := ByteBuffer.unread_of_empty (by omega)
    exact ⟨s, rfl, by rw [hempty, List.append_nil], rfl, rfl⟩
  | succ n ih =>
    have hstored : s.bb.rp < s.bb.wp := by omega
    have hrp : (popB s).bb.rp = s.bb.rp + 1 := by rw [popB_bb, ByteBuffer.pop_rp, if_pos hstored]
    obtain ⟨t, ht, hres, hdata, htwp⟩ := ih (s := answer s.bb.front (popB s)) hd (by simpa using hwp)
      (by rw [answer_bb, hrp, popB_bb, ByteBuffer.pop_wp]; omega)
    refine ⟨t, (execAll_cons (exec_rdbyte_read hd) _).trans ht, ?_, by simpa using hdata, by simpa using htwp⟩
    rw [hres, ByteBuffer.unread_of_stored hstored hwp]
    simp

/-- Settles O31: the write leaves the read pointer at 0, where all stored bytes are unread, and the pops answer these
(`execAll_rdbyte_unread`). -/
theorem outputResetReplaysByteBuffer : Obligations.OutputResetReplaysByteBuffer := by
  intro v s hwp h7 h0 h4
  have hbb : (controlWrite v s).bb = { s.bb with rp := 0 } := by
    simp [controlWrite_bb, pulsesInputReset, pulsesOutputReset, h7, h0]
  have hd : (controlWrite v s).ctl.dir = .read := by rw [controlWrite_dir, h4]; rfl
  obtain ⟨t, ht, hres, hdata, htwp⟩ := execAll_rdbyte_unread (n := s.bb.wp) hd (by rwa [hbb])
    (by rw [hbb]; exact Nat.zero_add _)
  rw [hbb] at hres hdata htwp
  refine ⟨t, (execAll_cons (exec_wrctrl v s) _).trans ht, ?_, hdata, htwp⟩
  rw [hres, controlWrite_results]
  rfl

end Sys2Proof.Machine
end

section
/-! One access to the code-unit buffer (R85 to R92): the lane table, the whole state after a push and a pop, and which pops
take a free value. -/

namespace Sys2Proof.Machine

/-! ### Lanes -/

/-- Mirroring within a unit twice gives the index back, so every lane is the lane of some index. -/
theorem laneOf_laneOf {i : Nat} (h : i < Cc) (be : Bool) (w : UnitWidth) : laneOf (laneOf i be w) be w = i := by
  have key : ∀ (j : Fin Cc) (b : Bool), laneOf (laneOf j.val b w) b w = j.val := by cases w <;> decide
  exact key ⟨i, h⟩ be

/-- Settles O34: the rows by evaluation; into, injective and onto by `laneOf_lt`, `laneOf_injective` and `laneOf_laneOf`. -/
theorem laneTableIsBijective : Obligations.LaneTableIsBijective :=
  ⟨⟨fun _ => rfl, by decide, by decide, by decide⟩, fun be w =>
    ⟨fun _ h => laneOf_lt h be w, fun _ _ hi hj => laneOf_injective hi hj,
      fun k hk => ⟨laneOf k be w, laneOf_lt hk be w, laneOf_laneOf hk be w⟩⟩⟩

/-! ### Pushes -/

theorem CodeUnitBuffer.push_wp (b : CodeUnitBuffer) (v : Byte) (j : Nat) (k : CuTag) :
    (b.push v j k).wp = if b.wp < Cc then b.wp + 1 else b.wp := by
  unfold CodeUnitBuffer.push
  split <;> rfl

theorem CodeUnitBuffer.pop_rp (b : CodeUnitBuffer) : b.pop.rp = if b.rp < b.wp then b.rp + 1 else b.rp := by
  unfold CodeUnitBuffer.pop
  split <;> rfl

theorem pushU_of_room {s : State} (h : s.cb.wp < Cc) (v : Byte) :
    pushU v s = { s with
      cb := { s.cb with
        lane := s.cb.lane.setIfInBounds (currentLane s s.cb.wp) v, wp := s.cb.wp + 1
        cfg := tagAfterPush s.cb.cfg (placementKey s) }
      ist := false } := by
  rw [pushU, CodeUnitBuffer.push_of_room h]

theorem pushU_of_full {s : State} (h : ¬ s.cb.wp < Cc) (v : Byte) : pushU v s = { s with ist := false } := by
  rw [pushU, CodeUnitBuffer.push_of_full h]

/-- Settles O35: a push has room (`pushU_of_room`) or not (`pushU_of_full`), and the flags follow the new write pointer
(`CodeUnitBuffer.push_wp`). -/
theorem pushUnitStoresInLaneOrDrops : Obligations.PushUnitStoresInLaneOrDrops := by
  intro v s hd
  rw [exec_wrcu_write hd]
  refine ⟨fun hlane _ hroom => ?_, fun hroom => laneOf_lt hroom _ _, fun hroom => ⟨_, by rw [pushU_of_room hroom]; rfl⟩,
    fun hfull => by rw [pushU_of_full hfull], fun hwp => ⟨pushU v s, rfl, ?_, ?_⟩⟩
  · rw [pushU_of_room hroom, setIfInBounds_of_lt (i := currentLane s s.cb.wp) _ hlane]
    rfl
  · rw [ufull_eq_true_iff, pushU_cb, CodeUnitBuffer.push_wp]
    split <;> omega
  · rw [uempty_eq_true_iff, pushU_cb, CodeUnitBuffer.push_rp, CodeUnitBuffer.push_wp]

/-! ### Pops that take no draw -/

theorem popU_of_empty {s : State} (h : ¬ s.cb.rp < s.cb.wp) :
    popU s = { s with ost := if s.config.emptyPopClearsOst then false else s.ost } := by
  rw [popU, CodeUnitBuffer.pop_of_empty h, (uempty_eq_true_iff s).2 h, Bool.not_true, ostAfterPop_empty,
    popDraws_of_empty h]
  rfl

theorem exec_rdcu_of_empty {s : State} (hd : s.ctl.dir = .read) (h : ¬ s.cb.rp < s.cb.wp) :
    exec .rdcu s = .next { s with
      ost := if s.config.emptyPopClearsOst then false else s.ost, results := s.results ++ [0x00] } := by
  rw [exec_rdcu_read hd, popU_of_empty h, frontU_of_empty h]
  rfl

/-- A stored-byte pop without a draw answers the byte of its lane, under every placement. -/
theorem exec_rdcu_of_stored {s : State} (hd : s.ctl.dir = .read) (h : s.cb.rp < s.cb.wp) (hdraw : popDraws s = false) :
    exec .rdcu s = .next { s with
      cb := { s.cb with rp := s.cb.rp + 1 }, ost := false
      results := s.results ++ [cellAt s.cb.lane (currentLane s s.cb.rp)] } := by
  rw [exec_rdcu_read hd, popU_of_stored h hdraw, frontU_of_stored h hdraw]
  rfl

/-- Settles O36: the reference mechanism takes no draw (`popDraws_of_mirrored`), so a pop answers its lane's byte or the
sentinel, and UEMPTY follows the new read pointer (`CodeUnitBuffer.pop_rp`). -/
theorem popUnitReturnsLaneOrSentinel : Obligations.PopUnitReturnsLaneOrSentinel := by
  intro s hd hplace
  refine ⟨fun hlane h => ?_, fun hrp => laneOf_lt hrp _ _, exec_rdcu_of_empty hd, ⟨_, exec_rdcu_read hd, ?_⟩⟩
  · rw [exec_rdcu_of_stored hd h (popDraws_of_mirrored hplace), cellAt_of_lt (i := currentLane s s.cb.rp) _ hlane]
    rfl
  · rw [uempty_eq_true_iff, answer_cb, popU_cb, CodeUnitBuffer.pop_wp, CodeUnitBuffer.pop_rp]

/-- Settles O37: `exec_rdcu_of_empty` does not ask for a placement. -/
theorem emptyPopUnitIsAlwaysSentinel : Obligations.EmptyPopUnitIsAlwaysSentinel := fun _ => exec_rdcu_of_empty

/-! ### Contract pops -/

/-- The lane a contract pop reads is the one its byte was pushed to, since the tag says under which BEND and W that was. -/
theorem cellAt_currentLane_of_contractPop {bs : List Byte} {s : State} (hbs : HoldsPushed bs s) (h : s.cb.rp < bs.length)
    (hc : contractPop s = true) : cellAt s.cb.lane (currentLane s s.cb.rp) = bs[s.cb.rp] := by
  obtain ⟨-, -, hle, hbe⟩ := (holdsPushed_iff bs s).1 hbs
  obtain ⟨hcfg, hbend⟩ | ⟨hcfg, hbend, -⟩ := (contractPop_iff s).1 hc
  · rw [currentLane, hbend]
    exact hle hcfg _ _ h
  · rw [currentLane, hbend]
    exact hbe _ hcfg _ h

/-- Settles O38: a contract pop takes no draw (`popDraws_of_contract`), and its lane holds the byte pushed
(`cellAt_currentLane_of_contractPop`). -/
theorem contractPopIsMechanismIndependent : Obligations.ContractPopIsMechanismIndependent := by
  intro s hd hstored hcase
  have hc : contractPop s = true := (contractPop_iff s).2 hcase
  have hpop := exec_rdcu_of_stored hd hstored (popDraws_of_contract hc)
  exact ⟨hpop, fun bs h hbs => by rw [hpop, cellAt_currentLane_of_contractPop hbs h hc]⟩

/-! ### Draws -/

theorem popDraws_iff (s : State) :
    popDraws s = true ↔ s.cb.rp < s.cb.wp ∧ s.config.placement = .undetermined ∧ ¬ contractPop s = true := by
  simp [popDraws, uempty_eq_false_iff, and_assoc]

theorem frontU_of_draw {s : State} (h : popDraws s = true) : frontU s = Config.freeByte s.draws := by
  simp [frontU, (uempty_eq_false_iff s).2 ((popDraws_iff s).1 h).1, h]

theorem popU_of_draw {s : State} (h : popDraws s = true) :
    popU s = { s with cb := { s.cb with rp := s.cb.rp + 1 }, ost := false, draws := s.draws + 1 } := by
  have hstored : s.cb.rp < s.cb.wp := ((popDraws_iff s).1 h).1
  rw [popU, CodeUnitBuffer.pop_of_stored hstored, (uempty_eq_false_iff s).2 hstored, h]
  rfl

/-- Settles O39: outside the two cases of R92 a stored-byte pop is no contract pop (`contractPop_iff`), so it is a draw. -/
theorem mechanismDependentPopIsADraw : Obligations.MechanismDependentPopIsADraw := by
  intro s hd hplace hstored hle hbe
  have hdraw : popDraws s = true :=
    (popDraws_iff s).2 ⟨hstored, hplace, fun hc => ((contractPop_iff s).1 hc).elim hle hbe⟩
  rw [exec_rdcu_read hd, popU_of_draw hdraw, frontU_of_draw hdraw]
  rfl

/-- Settles O43: among the effects an operation can have, only that of a pop of this buffer reaches the counter, and only
when `popDraws` holds. -/
theorem onlyUndeterminedPopsDraw : Obligations.OnlyUndeterminedPopsDraw := by
  intro i s t hx hne
  obtain ⟨-, -, rfl⟩ | ⟨-, v, rfl⟩ | ⟨-, rfl⟩ | ⟨v, -, rfl⟩ | ⟨v, -, -, rfl⟩ | ⟨-, -, rfl⟩ |
    ⟨v, -, -, rfl⟩ | ⟨rfl, hd, rfl⟩ := exec_next_cases hx
  · exact absurd rfl hne
  · exact absurd rfl hne
  · exact absurd rfl hne
  · exact absurd (controlWrite_draws v s) hne
  · exact absurd rfl hne
  · exact absurd rfl hne
  · exact absurd rfl hne
  · rw [answer_draws, popU_draws] at hne ⊢
    have hdraw : popDraws s = true := by
      by_contra h
      exact hne (if_neg h)
    obtain ⟨hstored, hplace, -⟩ := (popDraws_iff s).1 hdraw
    exact ⟨rfl, hd, hplace, hstored, if_pos hdraw⟩

end Sys2Proof.Machine
end

section
/-! The code-unit buffer as a queue under one BEND and W (R94): a push appends to the bytes not yet popped, a pop that takes no
draw answers the first of them. Under another BEND the same lanes are read in another order (R95). -/

namespace Sys2Proof.Machine

/-- The bytes a buffer holds that are not yet popped, in the order in which pops under BEND = `be` and width `w` read their
lanes (42_code_unit_buffer R90). -/
def CodeUnitBuffer.unread (be : Bool) (w : UnitWidth) (b : CodeUnitBuffer) : List Byte :=
  (List.range' b.rp (b.wp - b.rp)).map fun i => cellAt b.lane (laneOf i be w)

namespace CodeUnitBuffer

variable {be : Bool} {w : UnitWidth} {b : CodeUnitBuffer}

theorem unread_of_empty (h : ¬ b.rp < b.wp) : b.unread be w = [] := by
  simp [unread, Nat.sub_eq_zero_of_le (Nat.le_of_not_lt h)]

/-- The lane of the next index is no lane of a byte still to be read, since no two indices share one. -/
theorem unread_push (hrp : b.rp ≤ b.wp) (hroom : b.wp < Cc) (v : Byte) (k : CuTag) :
    (b.push v (laneOf b.wp be w) k).unread be w = b.unread be w ++ [v] := by
  have hold : ∀ i ∈ List.range' b.rp (b.wp - b.rp),
      cellAt (b.lane.setIfInBounds (laneOf b.wp be w) v) (laneOf i be w) = cellAt b.lane (laneOf i be w) := by
    intro i hi
    have hlt : i < b.wp := by
      rw [List.mem_range'_1] at hi
      omega
    exact cellAt_set_other _ (fun heq => hlt.ne' (laneOf_injective hroom (hlt.trans hroom) heq)) v
  rw [push_of_room hroom, unread, Nat.succ_sub hrp, List.range'_concat, List.map_append, List.map_congr_left hold, unread]
  simp [Nat.add_sub_cancel' hrp, cellAt_set_same _ (laneOf_lt hroom be w)]

theorem unread_of_stored (h : b.rp < b.wp) :
    b.unread be w = cellAt b.lane (laneOf b.rp be w) :: b.pop.unread be w := by
  have hlen : b.wp - b.rp = b.wp - (b.rp + 1) + 1 := by omega
  rw [unread, hlen, List.range'_succ, List.map_cons, pop_of_stored h, unread]

end CodeUnitBuffer

/-! ### Runs whose pops take no draw -/

/-- The key of pushes under BEND = `be` and width `w` (42_code_unit_buffer R87). -/
def keyOf (be : Bool) (w : UnitWidth) : CuTag := if be then .be w else .le

theorem placementKey_eq_keyOf (s : State) : placementKey s = keyOf s.ctl.bend (unitWidth s) := rfl

/-- Every pop of the sequence, run from `s` under BEND = `be` and width `w`, has its value determined: by the reference
mechanism, or as a contract result of bytes that were all pushed under this BEND and width (42_code_unit_buffer R92). -/
def PopsDetermined (be : Bool) (w : UnitWidth) (ops : List BufOp) (s : State) : Prop :=
  s.config.placement = .mirroredLane ∨
    s.cb.cfg = (if s.cb.wp = 0 then .none else keyOf be w) ∧ contractOps be w s.cb.wp s.cb.rp ops = true

/-- BEND and WSEL are those of a run whose `cfg` writes keep them (42_code_unit_buffer R94), and `w` is their width. -/
structure Placed (be : Bool) (wsel : BitVec 2) (w : UnitWidth) (s : State) : Prop where
  bend : s.ctl.bend = be
  wsel : s.ctl.wsel = wsel
  width : unitWidth s = w

section
variable {be : Bool} {wsel : BitVec 2} {w : UnitWidth} {ops : List BufOp} {s : State}

theorem Placed.currentLane_eq (h : Placed be wsel w s) (i : Nat) : currentLane s i = laneOf i be w := by
  rw [currentLane, h.bend, h.width]

theorem Placed.placementKey_eq (h : Placed be wsel w s) : placementKey s = keyOf be w := by
  rw [placementKey_eq_keyOf, h.bend, h.width]

theorem Placed.storeFields (h : Placed be wsel w s) {f : Byte} (hbend : f[3] = be) (hwsel : f.extractLsb' 5 2 = wsel) :
    Placed be wsel w (storeFields f s) :=
  ⟨hbend, hwsel, (congrArg (widthOf s.config.widths) (hwsel.trans h.wsel.symm)).trans h.width⟩

theorem Placed.unread_pushU (h : Placed be wsel w s) (hrp : s.cb.rp ≤ s.cb.wp) (hroom : s.cb.wp < Cc) (v : Byte) :
    (pushU v s).cb.unread be w = s.cb.unread be w ++ [v] := by
  rw [pushU_cb, h.currentLane_eq, CodeUnitBuffer.unread_push hrp hroom]

theorem tagAfterPush_self (k : CuTag) : tagAfterPush k k = k := by simp [tagAfterPush]

/-- A push under the run's own key keeps the tag at that key. -/
theorem PopsDetermined.pushU {v : Byte} (h : PopsDetermined be w (.push v :: ops) s) (hp : Placed be wsel w s)
    (hroom : s.cb.wp < Cc) : PopsDetermined be w ops (pushU v s) := by
  refine h.imp id fun ⟨hcfg, hops⟩ => ?_
  rw [pushU_cb, CodeUnitBuffer.push_of_room hroom, hp.placementKey_eq]
  refine ⟨?_, hops⟩
  rw [hcfg, if_neg (Nat.succ_ne_zero _)]
  split
  · rfl
  · exact tagAfterPush_self _

theorem contractOps_pop_iff {wp rp : Nat} :
    contractOps be w wp rp (.pop :: ops) = true ↔
      (be = true → (rp / w.bytes + 1) * w.bytes ≤ wp) ∧ contractOps be w wp (rp + 1) ops = true := by
  cases be <;> simp [contractOps, unitComplete]

theorem PopsDetermined.popDraws_eq_false (h : PopsDetermined be w (.pop :: ops) s) (hp : Placed be wsel w s)
    (hstored : s.cb.rp < s.cb.wp) : popDraws s = false := by
  obtain hplace | ⟨hcfg, hops⟩ := h
  · exact popDraws_of_mirrored hplace
  · refine popDraws_of_contract ((contractPop_iff s).2 ?_)
    rw [hcfg, if_neg (Nat.ne_zero_of_lt hstored), hp.bend, hp.width]
    cases be with
    | false => exact .inl ⟨rfl, rfl⟩
    | true => exact .inr ⟨rfl, rfl, (contractOps_pop_iff.1 hops).1 rfl⟩

theorem PopsDetermined.popU (h : PopsDetermined be w (.pop :: ops) s) (hstored : s.cb.rp < s.cb.wp) :
    PopsDetermined be w ops (popU s) := by
  refine h.imp id fun ⟨hcfg, hops⟩ => ?_
  rw [popU_cb, CodeUnitBuffer.pop_of_stored hstored]
  exact ⟨hcfg, (contractOps_pop_iff.1 hops).2⟩

end

theorem keepsPlacement_cfg_iff {be : Bool} {wsel : BitVec 2} {f : Byte} {ops : List BufOp} :
    keepsPlacement be wsel (.cfg f :: ops) = true ↔
      (f[3] = be ∧ f.extractLsb' 5 2 = wsel) ∧ keepsPlacement be wsel ops = true := by
  simp [keepsPlacement]

theorem keepsPlacement_of_cons {be : Bool} {wsel : BitVec 2} {op : BufOp} {ops : List BufOp}
    (h : keepsPlacement be wsel (op :: ops) = true) : keepsPlacement be wsel ops = true := by
  rw [keepsPlacement, List.all_cons, Bool.and_eq_true] at h
  exact h.2

/-- From any buffer, legal operations that keep the placement and whose pops are determined answer the bytes not yet popped
and then the bytes pushed, in order, and take no free value. -/
theorem execAll_onUnit {be : Bool} {wsel : BitVec 2} {w : UnitWidth} {ops : List BufOp} {s : State}
    (hp : Placed be wsel w s) (hkeep : keepsPlacement be wsel ops = true) (hdet : PopsDetermined be w ops s)
    (hrp : s.cb.rp ≤ s.cb.wp) (hroom : s.cb.wp + (pushedBytes ops).length ≤ Cc)
    (hlegal : legalOps s.ctl.dir (s.cb.wp - s.cb.rp) ops = true) :
    ∃ t : State, execAll (ops.map BufOp.onUnit) s = .next t ∧
      t.results = s.results ++ (s.cb.unread be w ++ pushedBytes ops).take (popCount ops) ∧ t.draws = s.draws := by
  induction ops generalizing s with
  | nil => exact ⟨s, rfl, by simp [popCount], rfl⟩
  | cons op ops ih =>
    have hkeep' := keepsPlacement_of_cons hkeep
    cases op with
    | cfg f =>
      obtain ⟨⟨hbend, hwsel⟩, -⟩ := keepsPlacement_cfg_iff.1 hkeep
      obtain ⟨t, ht, hres, hdraws⟩ := ih (s := storeFields f s) (hp.storeFields hbend hwsel) hkeep' hdet hrp hroom hlegal
      exact ⟨t, (execAll_cons (exec_wrctrl_cfg f s) _).trans ht, hres, hdraws⟩
    | push v =>
      obtain ⟨hd, hrest⟩ := legalOps_push_iff.1 hlegal
      simp only [pushedBytes, List.length_cons] at hroom
      have hfree : s.cb.wp < Cc := by omega
      have hwp : (pushU v s).cb.wp = s.cb.wp + 1 := by rw [pushU_cb, CodeUnitBuffer.push_wp, if_pos hfree]
      have hrp' : (pushU v s).cb.rp = s.cb.rp := CodeUnitBuffer.push_rp ..
      obtain ⟨t, ht, hres, hdraws⟩ := ih (s := pushU v s) ⟨hp.bend, hp.wsel, hp.width⟩ hkeep' (hdet.pushU hp hfree)
        (by omega) (by omega) (by rwa [hwp, hrp', Nat.succ_sub hrp])
      refine ⟨t, (execAll_cons (exec_wrcu_write hd v) _).trans ht, ?_, hdraws⟩
      rw [hres, pushU_results, hp.unread_pushU hrp hfree, List.append_assoc]
      rfl
    | pop =>
      obtain ⟨hpos, hd, hrest⟩ := legalOps_pop_iff.1 hlegal
      have hstored : s.cb.rp < s.cb.wp := by omega
      have hdraw : popDraws s = false := hdet.popDraws_eq_false hp hstored
      have hwp : (popU s).cb.wp = s.cb.wp := CodeUnitBuffer.pop_wp s.cb
      have hrp' : (popU s).cb.rp = s.cb.rp + 1 := by rw [popU_cb, CodeUnitBuffer.pop_rp, if_pos hstored]
      obtain ⟨t, ht, hres, hdraws⟩ := ih (s := answer (frontU s) (popU s)) ⟨hp.bend, hp.wsel, hp.width⟩ hkeep'
        (hdet.popU hstored) (by rw [answer_cb]; omega) (by rwa [answer_cb, hwp])
        (by rwa [answer_cb, hwp, hrp', Nat.sub_add_eq])
      refine ⟨t, (execAll_cons (exec_rdcu_read hd) _).trans ht, ?_, by simpa [hdraw] using hdraws⟩
      rw [hres, CodeUnitBuffer.unread_of_stored hstored, frontU_of_stored hstored hdraw, hp.currentLane_eq]
      simp [popCount, pushedBytes]

/-- Settles O40: with the reference mechanism every pop is determined, and from empty pointers nothing is unread
(`execAll_onUnit`). -/
theorem unitBufferRoundTripsUnderConstantPlacement : Obligations.UnitBufferRoundTripsUnderConstantPlacement := by
  intro s ops hplace hwp hrp hkeep hlen hlegal
  obtain ⟨t, ht, hres, -⟩ := execAll_onUnit ⟨rfl, rfl, rfl⟩ hkeep (.inl hplace) (by omega) (by omega) (by rwa [hwp, hrp])
  exact ⟨t, ht, by rwa [CodeUnitBuffer.unread_of_empty (by omega)] at hres⟩

/-- Settles O41: after the first `cfg` the tag NONE and the contract hypothesis make every pop determined under every
placement (`execAll_onUnit`). -/
theorem contractRoundTripUnderEveryPlacement : Obligations.ContractRoundTripUnderEveryPlacement := by
  intro s f ops hwp hrp hcfg hkeep hlen hlegal hcontract
  have hdet : PopsDetermined f[3] (widthOf s.config.widths (f.extractLsb' 5 2)) ops (storeFields f s) :=
    .inr ⟨by simp [hwp, hcfg], by simpa [hwp, hrp] using hcontract⟩
  obtain ⟨t, ht, hres, hdraws⟩ := execAll_onUnit (s := storeFields f s) ⟨rfl, rfl, rfl⟩ hkeep hdet
    (by rw [storeFields_cb]; omega) (by rw [storeFields_cb]; omega) (by simpa [hwp, hrp, ctlOfByte] using hlegal)
  refine ⟨t, (execAll_cons (exec_wrctrl_cfg f s) _).trans ht, ?_, hdraws⟩
  rwa [CodeUnitBuffer.unread_of_empty (by rw [storeFields_cb]; omega)] at hres

end Sys2Proof.Machine
end

section
/-! Four bytes pushed big-endian and popped little-endian (R95): the pops read the lanes in index order, and lane `k` holds the
byte whose index mirrors to `k`. -/

namespace Sys2Proof.Machine

theorem exec_wrctrl_noPulse {v : Byte} (h7 : v[7] = true) (h0 : v[0] = true) (s : State) :
    exec (.wrctrl v) s = .next (storeFields v s) := by
  rw [exec_wrctrl, controlWrite_noPulse (by simp [pulsesInputReset, h7]) (by simp [pulsesOutputReset, h0])]

/-- A mask that keeps both bits of WSEL keeps WSEL. -/
theorem and_three (x : BitVec 2) : x &&& 3#2 = x := BitVec.and_allOnes

/-- The mask 0x6E clears bit 4 alone of the field bits. -/
theorem ctlOfByte_and_6E (f : Byte) : ctlOfByte ((f &&& 0x6E) ||| 0x81) = { ctlOfByte f with dir := .write } := by
  simp [ctlOfByte, dirOfBit, BitVec.extractLsb'_or, BitVec.extractLsb'_and, and_three]

/-- The mask 0x66 clears bits 4 and 3 of the field bits, and 0x91 sets bit 4. -/
theorem ctlOfByte_and_66 (f : Byte) :
    ctlOfByte ((f &&& 0x66) ||| 0x91) = { ctlOfByte f with bend := false, dir := .read } := by
  simp [ctlOfByte, dirOfBit, BitVec.extractLsb'_or, BitVec.extractLsb'_and, and_three]

/-- Pushes that have room append to the bytes not yet popped and keep the placement. -/
theorem execAll_wrcu_of_room {vs : List Byte} {s : State} (hd : s.ctl.dir = .write) (hrp : s.cb.rp ≤ s.cb.wp)
    (hroom : s.cb.wp + vs.length ≤ Cc) :
    ∃ t : State, execAll (vs.map .wrcu) s = .next t ∧
      t.cb.unread s.ctl.bend (unitWidth s) = s.cb.unread s.ctl.bend (unitWidth s) ++ vs ∧
      t.cb.wp = s.cb.wp + vs.length ∧ t.cb.rp = s.cb.rp ∧ t.config = s.config ∧ t.results = s.results := by
  induction vs generalizing s with
  | nil => exact ⟨s, rfl, (List.append_nil _).symm, rfl, rfl, rfl, rfl⟩
  | cons v vs ih =>
    rw [List.length_cons] at hroom
    have hfree : s.cb.wp < Cc := by omega
    have hwp : (pushU v s).cb.wp = s.cb.wp + 1 := by rw [pushU_cb, CodeUnitBuffer.push_wp, if_pos hfree]
    have hrp' : (pushU v s).cb.rp = s.cb.rp := CodeUnitBuffer.push_rp ..
    obtain ⟨t, ht, hunread, htwp, htrp, hconfig, hres⟩ := ih (s := pushU v s) hd (by omega) (by omega)
    refine ⟨t, (execAll_cons (exec_wrcu_write hd v) _).trans ht, ?_, ?_, htrp.trans hrp', hconfig, hres⟩
    · have hpush := Placed.unread_pushU ⟨rfl, rfl, rfl⟩ hrp hfree v
      rw [pushU_ctl, unitWidth_pushU, hpush, List.append_assoc] at hunread
      exact hunread
    · rw [htwp, hwp, List.length_cons]
      omega

/-- Little-endian pops of a full buffer read lane after lane, and lane `k` holds the byte of big-endian index
`laneOf k true w` (42_code_unit_buffer R85: the mirroring is its own inverse). -/
theorem CodeUnitBuffer.unread_le_of_be {b : CodeUnitBuffer} (hrp : b.rp = 0) (hwp : b.wp = Cc) (w w' : UnitWidth) :
    b.unread false w' = (List.range Cc).map fun k => (b.unread true w).getD (laneOf k true w) 0x00 := by
  rw [unread, hrp, hwp, ← List.range_eq_range']
  refine List.map_congr_left fun k hk => ?_
  have hk : k < Cc := List.mem_range.1 hk
  have hle : laneOf k false w' = k := rfl
  simp [unread, hrp, hwp, laneOf_lt hk, laneOf_laneOf hk, hle]

/-- With the reference mechanism as many pops as there are lanes answer a full buffer that none has read. -/
theorem execAll_rdcu_of_full {s : State} (hd : s.ctl.dir = .read) (hplace : s.config.placement = .mirroredLane)
    (hrp : s.cb.rp = 0) (hwp : s.cb.wp = Cc) :
    ∃ t : State, execAll [.rdcu, .rdcu, .rdcu, .rdcu] s = .next t ∧
      t.results = s.results ++ s.cb.unread s.ctl.bend (unitWidth s) := by
  obtain ⟨t, ht, hres, -⟩ := execAll_onUnit (ops := [.pop, .pop, .pop, .pop]) ⟨rfl, rfl, rfl⟩ rfl (.inl hplace)
    (by omega) hwp.le (by rw [hd, hrp, hwp]; rfl)
  refine ⟨t, ht, ?_⟩
  rw [hres, List.take_of_length_le]
  · simp [pushedBytes]
  · simp [CodeUnitBuffer.unread, hrp, hwp, pushedBytes, popCount]

/-- From empty pointers, four pushes after a CTRL write with BEND = 1 fill the buffer with their bytes in order. -/
theorem execAll_pushes_of_bend {f : Byte} {s : State} (a b c d : Byte) (hwp : s.cb.wp = 0) (hrp : s.cb.rp = 0)
    (hbend : f[3] = true) :
    ∃ t : State, execAll (.wrctrl ((f &&& 0x6E) ||| 0x81) :: [a, b, c, d].map .wrcu) s = .next t ∧
      t.cb.unread true (widthOf s.config.widths (f.extractLsb' 5 2)) = [a, b, c, d] ∧
      t.cb.wp = Cc ∧ t.cb.rp = 0 ∧ t.config = s.config ∧ t.results = s.results := by
  have hctl := ctlOfByte_and_6E f
  obtain ⟨t, ht, hunread, htwp, htrp, hconfig, hres⟩ :=
    execAll_wrcu_of_room (s := storeFields ((f &&& 0x6E) ||| 0x81) s) (vs := [a, b, c, d])
      (by rw [storeFields_ctl, hctl]) (by rw [storeFields_cb]; omega) (by simp [hwp])
  refine ⟨t, (execAll_cons (exec_wrctrl_noPulse (by simp) (by simp) s) _).trans ht, ?_, by simp [htwp, hwp],
    by simp [htrp, hrp], hconfig, hres⟩
  have hempty : s.cb.unread true (widthOf s.config.widths (f.extractLsb' 5 2)) = [] :=
    CodeUnitBuffer.unread_of_empty (by omega)
  rw [unitWidth, storeFields_ctl, hctl] at hunread
  simpa [ctlOfByte, hbend, hempty] using hunread

/-- Settles O42: the pushes leave the four bytes unread in big-endian order (`execAll_pushes_of_bend`), the second CTRL write
makes that the order of `unread_le_of_be`, and the pops answer what is unread (`execAll_rdcu_of_full`). -/
theorem switchedEndiannessReversesUnits : Obligations.SwitchedEndiannessReversesUnits := by
  intro s f a b c d hplace hwp hrp hbend
  obtain ⟨p, hpushes, hunread, hpwp, hprp, hconfig, hpres⟩ := execAll_pushes_of_bend a b c d hwp hrp hbend
  have hctl := ctlOfByte_and_66 f
  obtain ⟨t, hpops, hres⟩ := execAll_rdcu_of_full (s := storeFields ((f &&& 0x66) ||| 0x91) p)
    (by rw [storeFields_ctl, hctl]) (by rwa [storeFields_config, hconfig]) hprp hpwp
  refine ⟨t, ?_, ?_⟩
  · refine (execAll_append _ _ hpushes).trans ?_
    rw [execAll_cons (exec_wrctrl_noPulse (by simp) (by simp) p), hpops]
  · rw [hres, storeFields_results, hpres, storeFields_ctl, hctl, storeFields_cb,
      CodeUnitBuffer.unread_le_of_be hprp hpwp, hunread]
    cases widthOf s.config.widths (f.extractLsb' 5 2) <;> rfl

end Sys2Proof.Machine
end

section
/-! The two directional resets (R97, R98, R101, R102): which of them a CTRL write pulses, and what each does to the pointers and
the flags. -/

namespace Sys2Proof.Machine

/-! ### The pulses of a CTRL write by its bits 7 and 0 -/

theorem exec_wrctrl_inputReset {v : Byte} (h7 : v[7] = false) (h0 : v[0] = true) (s : State) :
    exec (.wrctrl v) s = .next (inputReset (storeFields v s)) := by
  simp [controlWrite, pulsesInputReset, pulsesOutputReset, h7, h0]

theorem exec_wrctrl_outputReset {v : Byte} (h7 : v[7] = true) (h0 : v[0] = false) (s : State) :
    exec (.wrctrl v) s = .next (outputReset (storeFields v s)) := by
  simp [controlWrite, pulsesInputReset, pulsesOutputReset, h7, h0]

theorem exec_wrctrl_bothResets {v : Byte} (h7 : v[7] = false) (h0 : v[0] = false) (s : State) :
    exec (.wrctrl v) s = .next (outputReset (inputReset (storeFields v s))) := by
  simp [controlWrite, pulsesInputReset, pulsesOutputReset, h7, h0]

/-! ### Pointers and flags after a reset -/

@[simp] theorem ByteBuffer.inputReset_wp (b : ByteBuffer) (rewind : Bool) : (b.inputReset rewind).wp = 0 := rfl
@[simp] theorem ByteBuffer.inputReset_rp (b : ByteBuffer) (rewind : Bool) :
    (b.inputReset rewind).rp = if rewind then 0 else b.rp := rfl
@[simp] theorem CodeUnitBuffer.inputReset_wp (b : CodeUnitBuffer) (rewind : Bool) : (b.inputReset rewind).wp = 0 := rfl
@[simp] theorem CodeUnitBuffer.inputReset_rp (b : CodeUnitBuffer) (rewind : Bool) :
    (b.inputReset rewind).rp = if rewind then 0 else b.rp := rfl

@[simp] theorem bfull_inputReset (s : State) : bfull (inputReset s) = false := by simp [bfull_eq_false_iff]
@[simp] theorem ufull_inputReset (s : State) : ufull (inputReset s) = false := by simp [ufull_eq_false_iff]

/-- No read pointer is below a write pointer of 0, so the buffers are empty whether or not the reset rewinds. -/
@[simp] theorem bempty_inputReset (s : State) : bempty (inputReset s) = true := by simp [bempty_eq_true_iff]
@[simp] theorem uempty_inputReset (s : State) : uempty (inputReset s) = true := by simp [uempty_eq_true_iff]

@[simp] theorem bfull_outputReset (s : State) : bfull (outputReset s) = bfull s := rfl
@[simp] theorem ufull_outputReset (s : State) : ufull (outputReset s) = ufull s := rfl
@[simp] theorem bempty_outputReset (s : State) : bempty (outputReset s) = decide (s.bb.wp = 0) := by
  rw [Bool.eq_iff_iff, bempty_eq_true_iff, decide_eq_true_iff]; simp
@[simp] theorem uempty_outputReset (s : State) : uempty (outputReset s) = decide (s.cb.wp = 0) := by
  rw [Bool.eq_iff_iff, uempty_eq_true_iff, decide_eq_true_iff]; simp

/-! ### The obligations -/

/-- Settles O15: the write is the field store and an input reset (`exec_wrctrl_inputReset`), whose record is the one stated. -/
theorem inputResetEmptiesBothBuffers : Obligations.InputResetEmptiesBothBuffers :=
  fun v s h7 h0 => ⟨inputReset (storeFields v s), exec_wrctrl_inputReset h7 h0 s, rfl, bfull_inputReset _,
    ufull_inputReset _, bempty_inputReset _, uempty_inputReset _⟩

/-- Settles O16: the write is the field store and an output reset (`exec_wrctrl_outputReset`), and the field store touches no
pointer. -/
theorem outputResetRewindsBothReadPointers : Obligations.OutputResetRewindsBothReadPointers :=
  fun v s h7 h0 => ⟨outputReset (storeFields v s), exec_wrctrl_outputReset h7 h0 s, rfl, bempty_outputReset _,
    uempty_outputReset _, bfull_outputReset _, ufull_outputReset _⟩

/-- Settles O17: the write is the composition in the order of `exec_wrctrl_bothResets`, and the three parts commute. -/
theorem resetPulsesCommute : Obligations.ResetPulsesCommute := by
  intro v s h7 h0
  rw [exec_wrctrl_bothResets h7 h0]
  refine ⟨rfl, ?_, ?_⟩
  · rw [inputReset_outputReset]
  · rw [storeFields_inputReset, storeFields_outputReset, inputReset_outputReset]

/-- Settles O18: an output reset writes the read pointers and OST only, an input reset without rewinding keeps them, and each
is idempotent. -/
theorem resetsAreIsolatedAndIdempotent : Obligations.ResetsAreIsolatedAndIdempotent := by
  intro s
  refine ⟨⟨rfl, rfl, rfl, rfl, rfl, rfl⟩, fun hr => ⟨?_, ?_, rfl⟩, inputReset_inputReset s, outputReset_outputReset s⟩
  · simp [hr]
  · simp [hr]

end Sys2Proof.Machine
end

section
/-! The status bits along every operation (R99), and that every operation completes (R100). -/

namespace Sys2Proof.Machine

/-- A pop clears OST when a byte is stored, and an empty one under EMPTY_POP_CLEARS_OST (43_direction_reset_controller R99). -/
theorem ostAfterPop_bempty (s : State) :
    ostAfterPop s (!bempty s) = if s.bb.rp < s.bb.wp ∨ s.config.emptyPopClearsOst = true then false else s.ost := by
  simp [ostAfterPop, bempty]

theorem ostAfterPop_uempty (s : State) :
    ostAfterPop s (!uempty s) = if s.cb.rp < s.cb.wp ∨ s.config.emptyPopClearsOst = true then false else s.ost := by
  simp [ostAfterPop, uempty]

theorem controlWrite_ist_eq_ite (v : Byte) (s : State) : (controlWrite v s).ist = if v[7] then s.ist else true := by
  rw [controlWrite_ist, pulsesInputReset]; cases v[7] <;> rfl

theorem controlWrite_ost_eq_ite (v : Byte) (s : State) : (controlWrite v s).ost = if v[0] then s.ost else true := by
  rw [controlWrite_ost, pulsesOutputReset]; cases v[0] <;> rfl

/-- Settles O47, operation by operation: the data accesses by DIR, the others by the one effect they have. -/
theorem statusTransitions : Obligations.StatusTransitions := by
  intro i s t hx
  cases i with
  | reset => cases hx; exact ⟨rfl, rfl⟩
  | wrctrl v => cases hx; exact ⟨controlWrite_ist_eq_ite v s, controlWrite_ost_eq_ite v s⟩
  | wrbyte v =>
    cases hd : s.ctl.dir with
    | write => rw [exec_wrbyte_write hd] at hx; cases hx; simp
    | read => rw [exec_wrbyte_read hd] at hx; cases hx; simp
  | wrcu v =>
    cases hd : s.ctl.dir with
    | write => rw [exec_wrcu_write hd] at hx; cases hx; simp
    | read => rw [exec_wrcu_read hd] at hx; cases hx; simp
  | rdbyte =>
    cases hd : s.ctl.dir with
    | write => rw [exec_rdbyte_write hd] at hx; cases hx; simp
    | read => rw [exec_rdbyte_read hd] at hx; cases hx; simp [ostAfterPop_bempty]
  | rdcu =>
    cases hd : s.ctl.dir with
    | write => rw [exec_rdcu_write hd] at hx; cases hx; simp
    | read => rw [exec_rdcu_read hd] at hx; cases hx; simp [ostAfterPop_uempty]
  | rdctrl | rdflags | wrflags v | rdrsv idx | wrrsv idx v => cases hx; exact ⟨rfl, rfl⟩
  | illegal => cases hx

/-- Settles O48: each operation's outcome is a next state, whichever DIR routes it (`exists_exec_next`). -/
theorem everyOperationCompletes : Obligations.EveryOperationCompletes := fun _ s hi => exists_exec_next hi s

end Sys2Proof.Machine
end

section
/-! The accesses that DIR does not route (44_flags_and_reserved): what FLAGS reads as bit by bit (R103), the three accesses that
change nothing but the results (R104, R105, R106), and the illegal word (R107). -/

namespace Sys2Proof.Machine

/-! ### The flags byte -/

@[simp] theorem flagsByte_bit0 (s : State) : (flagsByte s)[0] = bempty s := by simp [flagsByte, bitAt]
@[simp] theorem flagsByte_bit1 (s : State) : (flagsByte s)[1] = bfull s := by simp [flagsByte, bitAt]
@[simp] theorem flagsByte_bit2 (s : State) : (flagsByte s)[2] = uempty s := by simp [flagsByte, bitAt]
@[simp] theorem flagsByte_bit3 (s : State) : (flagsByte s)[3] = ufull s := by simp [flagsByte, bitAt]

/-- Each flag stands at one of the bits 3:0, so none reaches a bit from 4 on. -/
theorem flagsByte_upper (s : State) : (flagsByte s).extractLsb' 4 4 = 0 := by
  ext i
  have h1 : 4 + i ≠ 1 := by omega
  have h2 : 4 + i ≠ 2 := by omega
  have h3 : 4 + i ≠ 3 := by omega
  simp [flagsByte, getLsbD_bitAt_of_ne, h1, h2, h3]

/-! ### The obligations -/

/-- Settles O44: the value is the flags byte, and each of its bits is one flag of the current state. -/
theorem readFlagsAnswersFullAndEmpty : Obligations.ReadFlagsAnswersFullAndEmpty := by
  intro s
  refine ⟨flagsByte s, exec_rdflags s, ?_, ?_, ?_, ?_, flagsByte_upper s⟩
  · rw [flagsByte_bit0, bempty_eq_true_iff]
  · rw [flagsByte_bit1, bfull_eq_true_iff]
  · rw [flagsByte_bit2, uempty_eq_true_iff]
  · rw [flagsByte_bit3, ufull_eq_true_iff]

/-- Settles O45: none of the three accesses looks at DIR, and only the read of a reserved index answers. -/
theorem flagsWritesAndReservedAccessesAreInert : Obligations.FlagsWritesAndReservedAccessesAreInert := fun idx v s =>
  ⟨exec_wrflags v s, exec_rdrsv idx s, exec_wrrsv idx v s⟩

/-- Settles O46: KIND = 0b11 decodes to ILLEGAL under every index map, and its one meaning is the refusal. -/
theorem illegalWordIsRefused : Obligations.IllegalWordIsRefused := by
  intro idx d s rest h
  have hill : decode s.config.addrs (packWord 0b11 idx d) = .illegal := decode_packWord_illegal _ idx d
  rw [step_of_pending_cons h, perform, dropEvent_config, hill, exec_illegal]

end Sys2Proof.Machine
end

section
/-! RESET (R120, R121): the record it leaves, and what FLAGS and CTRL then read as. -/

namespace Sys2Proof.Machine

theorem flagsByte_of_empty {s : State} (hb : s.bb = .empty) (hc : s.cb = .empty) : flagsByte s = 0x05 := by
  rw [flagsByte, bempty, bfull, uempty, ufull, hb, hc]
  decide

theorem ctrlByte_of_status {s : State} (hist : s.ist = true) (host : s.ost = true) :
    ctrlByte s = 0x81 ||| fieldsByte s.ctl := by
  have hbits : bitAt 7 true ||| bitAt 0 true = 0x81 := by decide
  rw [ctrlByte, hist, host, ← hbits, BitVec.or_assoc, BitVec.or_comm (fieldsByte s.ctl), ← BitVec.or_assoc]

/-- Settles O9: the state is `blockReset s` as it is written; FLAGS follows from the empty buffers and CTRL from the status
bits. -/
theorem resetSetsEveryElement : Obligations.ResetSetsEveryElement := by
  intro s
  have hctrl : ctrlByte (blockReset s) = 0x81 ||| fieldsByte s.config.ctrlReset := ctrlByte_of_status rfl rfl
  refine ⟨blockReset s, exec_reset s, rfl, flagsByte_of_empty rfl rfl, hctrl, fun href => ?_⟩
  rw [hctrl, href]
  decide

/-- Settles O12: the control fields are equal by hypothesis, and no other element depends on the state before. -/
theorem explicitResetIsPowerOnReset : Obligations.ExplicitResetIsPowerOnReset :=
  fun s h => ⟨blockReset s, exec_reset s, h, rfl, rfl, rfl, rfl⟩

end Sys2Proof.Machine
end

section
/-! The hazards of a CTRL write: status bits written back as they were read (R125), and an input reset without an output reset
(R128). -/

namespace Sys2Proof.Machine

/-! ### Status bits written back -/

theorem storeFields_ctrlByte (s : State) : storeFields (ctrlByte s) s = s := by
  rw [storeFields, ctlOfByte_ctrlByte]

/-- Writing back the status just read pulses the resets of exactly the sides that read 0, so both status bits are then 1. -/
theorem controlWrite_status_of_writeBack {v : Byte} {s : State} (h7 : v[7] = s.ist) (h0 : v[0] = s.ost) :
    (controlWrite v s).ist = true ∧ (controlWrite v s).ost = true := by
  simp [pulsesInputReset, pulsesOutputReset, h7, h0]

/-- With OST = 1 every CTRL write keeps the read pointers: R40 has them at 0, where a reset would put them. -/
theorem controlWrite_rp_of_ost (v : Byte) {s : State} (hinv : s.Inv) (host : s.ost = true) :
    (controlWrite v s).bb.rp = s.bb.rp ∧ (controlWrite v s).cb.rp = s.cb.rp := by
  obtain ⟨-, -, hrp, -⟩ := hinv
  obtain ⟨hbb, hcb⟩ := hrp host
  simp [controlWrite_bb, controlWrite_cb, hbb, hcb]

/-- Settles O20: each clause reads the buffers after the write (`controlWrite_bb`, `controlWrite_cb`) at the pulses that the
status bits select; with both bits forced to 1 the write stores the fields that are there already. -/
theorem writingBackReadStatusResets : Obligations.WritingBackReadStatusResets := by
  intro v s h7 h0
  have hin : pulsesInputReset v = !s.ist := by rw [pulsesInputReset, h7]
  have hout : pulsesOutputReset v = !s.ost := by rw [pulsesOutputReset, h0]
  obtain ⟨hist, host⟩ := controlWrite_status_of_writeBack h7 h0
  refine ⟨⟨controlWrite v s, exec_wrctrl v s, controlWrite_ctl v s, hist, host, fun hi => ?_, fun ho => ?_, fun hi => ?_,
    fun hinv => controlWrite_rp_of_ost v hinv, fun hi ho => ?_⟩, ?_⟩
  · simp [controlWrite_bb, controlWrite_cb, hin, hi]
  · simp [controlWrite_bb, controlWrite_cb, hout, ho]
  · simp [controlWrite_bb, controlWrite_cb, hin, hi]
  · simp [controlWrite_bb, controlWrite_cb, hin, hi, hout, ho]
  · rw [exec_wrctrl_cfg, storeFields_ctrlByte]

/-! ### An input reset alone -/

/-- Settles O33: the write leaves the byte buffer empty with its read pointer unmoved, and pops of an empty buffer keep it
(`execAll_rdbyte_of_empty`). -/
theorem inputResetAloneLeavesReadPointer : Obligations.InputResetAloneLeavesReadPointer := by
  intro v n s hrewind h7 h0 h4
  have hdir : (inputReset (storeFields v s)).ctl.dir = .read := (dirOfBit_eq_read_iff _).2 h4
  obtain ⟨t, ht, hres, hbb⟩ := execAll_rdbyte_of_empty n hdir ((bempty_eq_true_iff _).1 (bempty_inputReset _))
  refine ⟨t, (execAll_cons (exec_wrctrl_inputReset h7 h0 s) _).trans ht, hres, ?_, ?_⟩
  · simp [hbb, hrewind]
  · simp [hbb]

end Sys2Proof.Machine
end

section
/-! IN_RESET_REWINDS_RP (R128): every effect commutes with changing it but an input reset, and an output reset after that hides
where the input reset left the read pointers. -/

namespace Sys2Proof.Machine

/-- The state with another value of IN_RESET_REWINDS_RP (00_scope section 3). -/
def withRewind (b : Bool) (s : State) : State := { s with config := { s.config with inResetRewindsRp := b } }

section
variable (b : Bool) (v : Byte) (s : State)

@[simp] theorem withRewind_dir : (withRewind b s).ctl.dir = s.ctl.dir := rfl
@[simp] theorem withRewind_bb : (withRewind b s).bb = s.bb := rfl
@[simp] theorem ctrlByte_withRewind : ctrlByte (withRewind b s) = ctrlByte s := rfl
@[simp] theorem flagsByte_withRewind : flagsByte (withRewind b s) = flagsByte s := rfl
@[simp] theorem frontU_withRewind : frontU (withRewind b s) = frontU s := rfl

@[simp] theorem answer_withRewind : answer v (withRewind b s) = withRewind b (answer v s) := rfl
@[simp] theorem pushB_withRewind : pushB v (withRewind b s) = withRewind b (pushB v s) := rfl
@[simp] theorem popB_withRewind : popB (withRewind b s) = withRewind b (popB s) := rfl
@[simp] theorem pushU_withRewind : pushU v (withRewind b s) = withRewind b (pushU v s) := rfl
@[simp] theorem popU_withRewind : popU (withRewind b s) = withRewind b (popU s) := rfl
@[simp] theorem blockReset_withRewind : blockReset (withRewind b s) = withRewind b (blockReset s) := rfl
@[simp] theorem storeFields_withRewind : storeFields v (withRewind b s) = withRewind b (storeFields v s) := rfl
@[simp] theorem outputReset_withRewind : outputReset (withRewind b s) = withRewind b (outputReset s) := rfl

@[simp] theorem outputReset_inputReset_withRewind :
    outputReset (inputReset (withRewind b s)) = withRewind b (outputReset (inputReset s)) := rfl

end

theorem exec_wrctrl_withRewind (b : Bool) (s : State) {v : Byte} (hv : v[7] = false → v[0] = false) :
    exec (.wrctrl v) (withRewind b s) = mapNext (withRewind b) (exec (.wrctrl v) s) := by
  cases h7 : v[7] with
  | false => simp [exec_wrctrl_bothResets h7 (hv h7), mapNext, -exec_wrctrl]
  | true =>
    cases h0 : v[0] with
    | false => simp [exec_wrctrl_outputReset h7 h0, mapNext, -exec_wrctrl]
    | true => simp [exec_wrctrl_noPulse h7 h0, mapNext, -exec_wrctrl]

/-- No operation but a CTRL write resets the input side alone, so none of them looks at the parameter. -/
theorem exec_withRewind (b : Bool) (s : State) {i : Instr} (hwr : ∀ v : Byte, i ≠ .wrctrl v) :
    exec i (withRewind b s) = mapNext (withRewind b) (exec i s) := by
  cases i with
  | wrctrl v => exact absurd rfl (hwr v)
  | rdbyte => cases hd : s.ctl.dir <;> simp [exec_rdbyte_read, exec_rdbyte_write, hd, mapNext]
  | wrbyte v => cases hd : s.ctl.dir <;> simp [exec_wrbyte_read, exec_wrbyte_write, hd, mapNext]
  | rdcu => cases hd : s.ctl.dir <;> simp [exec_rdcu_read, exec_rdcu_write, hd, mapNext]
  | wrcu v => cases hd : s.ctl.dir <;> simp [exec_wrcu_read, exec_wrcu_write, hd, mapNext]
  | reset | rdctrl | rdflags | wrflags v | rdrsv idx | wrrsv idx v | illegal => simp [mapNext]

/-- Settles O52: `exec_withRewind` for the operations that are no CTRL write, `exec_wrctrl_withRewind` for the CTRL writes that
pulse no input reset or both resets. -/
theorem fullResetHidesRewindParameter : Obligations.FullResetHidesRewindParameter := by
  rintro i s b (hwr | ⟨v, rfl, hv⟩)
  · exact exec_withRewind b s hwr
  · exact exec_wrctrl_withRewind b s hv

end Sys2Proof.Machine
end

section
/-! The host's view (R19, R132, R133): a read answers one value and no other operation any, and a step runs one word. -/

namespace Sys2Proof.Machine

/-- KIND decides whether an operation answers: the reads append one value, the writes and RESET none. -/
theorem exec_results_by_kind {i : Instr} {s t : State} (hx : exec i s = .next t) :
    (i.kind = 0b00#2 ∧ ∃ v : Byte, t.results = s.results ++ [v]) ∨ (i.kind ≠ 0b00#2 ∧ t.results = s.results) := by
  have hwrite : 0b01#2 ≠ 0b00#2 := by decide
  have hreset : 0b10#2 ≠ 0b00#2 := by decide
  obtain ⟨hk, -, rfl⟩ | ⟨hk, v, rfl⟩ | ⟨rfl, rfl⟩ | ⟨v, rfl, rfl⟩ | ⟨v, rfl, -, rfl⟩ | ⟨rfl, -, rfl⟩ |
    ⟨v, rfl, -, rfl⟩ | ⟨rfl, -, rfl⟩ :=
    exec_next_cases hx
  exacts [.inr ⟨hk.trans_ne hwrite, rfl⟩, .inl ⟨hk, v, rfl⟩, .inr ⟨hreset, rfl⟩,
    .inr ⟨hwrite, controlWrite_results v s⟩, .inr ⟨hwrite, rfl⟩, .inl ⟨rfl, _, rfl⟩, .inr ⟨hwrite, rfl⟩, .inl ⟨rfl, _, rfl⟩]

/-- Settles O51: the two cases of `exec_results_by_kind` exclude each other by KIND. -/
theorem everyReadAnswersOneValue : Obligations.EveryReadAnswersOneValue := by
  intro i s t hx
  obtain ⟨hk, hres⟩ | ⟨hk, hres⟩ := exec_results_by_kind hx
  · exact ⟨fun _ => hres, fun h => absurd hk h⟩
  · exact ⟨fun h => absurd h hk, fun _ => hres⟩

/-- Settles O54: the event is taken off before it is performed, and performing a word is executing what it decodes to. -/
theorem stepRunsDecodedWord : Obligations.StepRunsDecodedWord := fun _ _ _ h => step_of_pending_cons h

end Sys2Proof.Machine
end

section
/-! The words the spec writes out (R70 and the vectors of 95_test_vectors): each is what the assembler writes for its operation,
except the reset of vector F5, whose ignored bits are not 0 (R64). -/

namespace Sys2Proof

/-- A word that the encoder writes for a well-formed operation decodes to it: O2 under the reference map. -/
theorem decode_reference_of_encode_eq {i : Instr} {w : AccessWord} (hi : i.wellFormed .reference = true)
    (hw : encode .reference i = w) : decode .reference w = i :=
  hw ▸ decodeInvertsEncode .reference i (by decide) hi

/-- Settles O1: twelve words are encodings of their operations (`decode_reference_of_encode_eq`); 0x2ABCD is a reset by its KIND
alone. -/
theorem specExampleWordsDecode : Obligations.SpecExampleWordsDecode := by
  have hreset : packWord 0b10#2 0xAB#8 0xCD#8 = 0x2ABCD := by decide
  refine ⟨?_, ?_, ?_, ?_, ?_, ?_, ?_, ?_, ?_, ?_, ?_, ?resetIgnored, ?_⟩
  case resetIgnored => exact hreset ▸ decode_packWord_reset .reference 0xAB#8 0xCD#8
  all_goals exact decode_reference_of_encode_eq (by decide) (by decide)

end Sys2Proof
end
